-- ==== Sys2Proof/Word.lean ====
section
/-! DEFINITION. The byte, the word and the index types of the ZV412 (spec/00_scope.md, Terms and Conventions).
An index type has exactly as many values as the spec gives places: eight device positions, two channels,
sixteen page buffers, thirty-two order entries, sixteen zone entries. -/

namespace Sys2Proof

/-- One byte of host memory, of a device or of a record. -/
abbrev Byte := BitVec 8

/-- One 32-bit word of the host bus, and the content of one register. -/
abbrev Word := BitVec 32

/-- A device position, 0 to 7 (spec/00_scope.md, Terms). -/
abbrev DevicePos := Fin 8

/-- A serial channel, 0 or 1 (R24). -/
abbrev ChannelId := Fin 2

/-- A select line of a channel, 0 to 3 (R24). -/
abbrev Select := Fin 4

/-- A page buffer record, 0 to 15 (R1). -/
abbrev BufferId := Fin 16

/-- An order entry, 0 to 31 (R70). -/
abbrev EntryId := Fin 32

/-- A zone index, 0 to 15 (R131). -/
abbrev ZoneIndex := Fin 16

end Sys2Proof
end

