-- ==== Sys2Proof/Syntax.lean ====
section
/-! DEFINITION. The commands of the block: one constructor of `Instr` per row of spec/opcode_table.json, with what
the outside gives at that event (a written value, the words a burst moved, the status byte a device answered, the
level of a line). Every type here is plain data. -/

namespace Sys2Proof

/-- The 32 bytes of an order record but for its kind byte, field by field (R183). Nothing is examined here: a field
holds what the slot held. `payload` is bytes 16 to 23 and `mustBeZero` bytes 24 to 31, least significant byte first. -/
structure OrderRecord where
  tag : BitVec 16
  flags : Byte
  device : Byte
  /-- Byte 5: the FILL pattern, the SET_ZONE zone index, or the CANCEL ring. -/
  selector : Byte
  lengthLess1 : BitVec 16
  address : Word
  buffer : Word
  payload : BitVec 64
  mustBeZero : BitVec 64
  deriving DecidableEq, Repr

/-- The 32 bytes of the setup block, field by field (R185). -/
structure SetupBlock where
  normalBase : Word
  urgentBase : Word
  completionBase : Word
  normalSize : BitVec 16
  urgentSize : BitVec 16
  completionSize : BitVec 16
  threshold : Byte
  linger : Byte
  reserved : BitVec 96
  deriving DecidableEq, Repr

/-- How a burst ends in a host fault on the bus (R158). A retry count that reaches 64 is the third host fault; it
arises from MASTER_BURST_RETRY. -/
inductive BusFault where
  | abort
  | check
  deriving DecidableEq, Repr

/-- The end of a write transfer: every word moved, or a host fault (R158). -/
inductive WriteEnd where
  | complete
  | hostFault (f : BusFault)
  deriving DecidableEq, Repr

/-- The end of the setup block read (R166). -/
inductive SetupEnd where
  | complete (block : SetupBlock)
  | hostFault (f : BusFault)
  deriving DecidableEq, Repr

/-- The end of a write-data read: the words of the whole transfer, or a host fault (R99, R157). -/
inductive DataEnd where
  | complete (words : List Word)
  | hostFault (f : BusFault)
  deriving DecidableEq, Repr

/-- The eight registers of the window (R162). -/
inductive Register where
  | ident | control | state | setupAddr | ntail | utail | chead | fault
  deriving DecidableEq, Repr

/-- The commands: one constructor per row of spec/opcode_table.json, in the table's order. A frame-end command names
the channel whose frame ends; a timer command names the device position or buffer whose timer expires. -/
inductive Instr where
  /-- LINK_RESET (R164): HRST is asserted, or the supply comes up. -/
  | linkReset
  /-- HRST_RELEASE (R147): HRST is released while BW has the level `bw` (true: high). -/
  | hrstRelease (bw : Bool)
  /-- GRD_CHANGE (R134): the guard line takes the level `asserted`. -/
  | grdChange (asserted : Bool)
  /-- RUN_SET (R167): a CONTROL write with RUN 1, LOCAL_RESET 0 and these two enables. -/
  | runSet (intEnable faultIntEnable : Bool)
  /-- RUN_CLEAR (R167): a CONTROL write with RUN 0, LOCAL_RESET 0 and these two enables. -/
  | runClear (intEnable faultIntEnable : Bool)
  /-- INT_ENABLE (R163): a CONTROL write that gives INT_ENABLE this value and the other bits as they stand. -/
  | intEnable (value : Bool)
  /-- FAULT_INT_ENABLE (R163): a CONTROL write that gives FAULT_INT_ENABLE this value and the other bits as they stand. -/
  | faultIntEnable (value : Bool)
  /-- LOCAL_RESET (R163): a CONTROL write with LOCAL_RESET 1 and these two enables; BW has the level `bw` in this event. -/
  | localReset (intEnable faultIntEnable : Bool) (bw : Bool)
  /-- LOCAL_RESET_AT_BURST_END (R163): the burst in progress ends while a local reset is pending; BW has the level `bw`. -/
  | localResetAtBurstEnd (bw : Bool)
  /-- SETUP_ADDR_WRITE (R162). -/
  | setupAddrWrite (value : Word)
  /-- NTAIL_WRITE (R169). -/
  | ntailWrite (value : Word)
  /-- UTAIL_WRITE (R169). -/
  | utailWrite (value : Word)
  /-- CHEAD_WRITE (R172). -/
  | cheadWrite (value : Word)
  /-- FAULT_WRITE (R176). -/
  | faultWrite (value : Word)
  /-- REGISTER_WRITE_IGNORED (R161): a write that R161 ignores. -/
  | registerWriteIgnored (register : Register) (value : Word) (byteEnables : BitVec 4)
  /-- MASTER_BURST_COMPLETE (R158): a burst that is not the last of its transfer ends COMPLETE. -/
  | masterBurstComplete
  /-- MASTER_BURST_RETRY (R158): the burst ends RETRY after the target took `taken` further words. -/
  | masterBurstRetry (taken : Nat)
  /-- SETUP_BLOCK_READ_END (R166). -/
  | setupBlockReadEnd (result : SetupEnd)
  /-- ORDER_FETCH_HOST_FAULT (R160). -/
  | orderFetchHostFault (f : BusFault)
  /-- READ (R76): a fetch ends good with a READ record. So for the next nine, each of its kind. -/
  | read (record : OrderRecord)
  | write (record : OrderRecord)
  | fill (record : OrderRecord)
  | flush (record : OrderRecord)
  | setZone (record : OrderRecord)
  | setGeometry (record : OrderRecord)
  | storeProfile (record : OrderRecord)
  /-- CANCEL (R86). -/
  | cancel (record : OrderRecord)
  /-- REVIVE (R88). -/
  | revive (record : OrderRecord)
  /-- REPORT (R89). -/
  | report (record : OrderRecord)
  /-- UNKNOWN_KIND (R73): a fetch ends good with a record whose kind code names no kind. -/
  | unknownKind (code : Byte) (record : OrderRecord)
  /-- COMPLETION_WRITE_END (R173). -/
  | completionWriteEnd (result : WriteEnd)
  /-- WRITE_DATA_READ_END (R99). -/
  | writeDataReadEnd (result : DataEnd)
  /-- READ_DATA_STORE_END (R125). -/
  | readDataStoreEnd (result : WriteEnd)
  /-- REPORT_STORE_END (R182). -/
  | reportStoreEnd (result : WriteEnd)
  /-- WRITE_START (R97). -/
  | writeStart
  /-- FILL_START (R97). -/
  | fillStart
  /-- READ_START (R117). -/
  | readStart
  /-- READ_RESUME (R116). -/
  | readResume
  /-- FLUSH_START (R107). -/
  | flushStart
  /-- SET_ZONE_START (R138). -/
  | setZoneStart
  /-- SET_GEOMETRY_START (R151). -/
  | setGeometryStart
  /-- STORE_PROFILE_START (R153). -/
  | storeProfileStart
  /-- ALLOCATION_REQUEST_SERVED (R7). -/
  | allocationRequestServed
  /-- LINGER_EXPIRY (R14). -/
  | lingerExpiry (buffer : BufferId)
  /-- PAGE_LOAD_END (R33). -/
  | pageLoadEnd (channel : ChannelId)
  /-- CONFIRMING_ASK_END (R34), with the status byte answered. So for the next three asks. -/
  | confirmingAskEnd (channel : ChannelId) (status : Byte)
  /-- POLL_END (R35). -/
  | pollEnd (channel : ChannelId) (status : Byte)
  /-- WAKE_ASK_END (R32). -/
  | wakeAskEnd (channel : ChannelId) (status : Byte)
  /-- REVIVE_ASK_END (R43). -/
  | reviveAskEnd (channel : ChannelId) (status : Byte)
  /-- FILL_READ_END (R53), with the bytes the device returned. So for the next two frames. -/
  | fillReadEnd (channel : ChannelId) (bytes : List Byte)
  /-- VERIFY_READ_END (R59). -/
  | verifyReadEnd (channel : ChannelId) (bytes : List Byte)
  /-- HOST_READ_FRAME_END (R122). -/
  | hostReadFrameEnd (channel : ChannelId) (bytes : List Byte)
  /-- COPY_A_READ_END (R148): the frame is on channel 0. -/
  | copyAReadEnd (bytes : List Byte)
  /-- COPY_B_READ_END (R148). -/
  | copyBReadEnd (bytes : List Byte)
  /-- POLL_TIMER_EXPIRY (R30). -/
  | pollTimerExpiry (device : DevicePos)
  /-- WAKE_LIMIT_EXPIRY (R31). -/
  | wakeLimitExpiry (device : DevicePos)
  /-- CYCLE_TIMER_EXPIRY (R36). -/
  | cycleTimerExpiry (device : DevicePos)
  /-- DURABLE_ORDER_END (R103). -/
  | durableOrderEnd
  /-- FLUSH_REPORT (R108). -/
  | flushReport
  /-- SET_ZONE_ACTION (R139). -/
  | setZoneAction
  /-- SET_GEOMETRY_APPLY (R152). -/
  | setGeometryApply
  /-- STORE_PROFILE_BUILD (R154). -/
  | storeProfileBuild
  /-- LOAD_END (R150). -/
  | loadEnd
  /-- DRAIN_END (R167). -/
  | drainEnd
  deriving DecidableEq, Repr

end Sys2Proof
end

