-- ==== Sys2Proof/Machine/State.lean ====
section
/-! DEFINITION. The state of the ZV412, block by block as spec/00_scope.md lists them, the state after a link reset
(`State.reset`), and the closed lists of faults and refusals. Plain data throughout. INVENTORY.md lists every field with
the rule that names it. -/

namespace Sys2Proof.Machine

/-! ### Names the spec writes in capitals -/

/-- The two order rings (R169). -/
inductive RingId where
  | normal
  | urgent
  deriving DecidableEq, Repr

/-- Order kinds (R70, R183); a code that names no kind is kept as fetched. -/
inductive Kind where
  | read | write | fill | flush | cancel | setZone | setGeometry | storeProfile | revive | report
  | unknown (code : Byte)
  deriving DecidableEq, Repr

/-- Order states (section 4.3). -/
inductive OrderState where
  | waiting | active | parked | delivering | held | done
  deriving DecidableEq, Repr

/-- Completion statuses (R184). `protection` is PROTECTED, `reservedArea` is RESERVED. -/
inductive Status where
  | ok | badOrder | noDevice | badRange | reservedArea | protection | deviceOffline | pageFailed | lateFailures
  | hostFault | cancelled | profileFull
  deriving DecidableEq, Repr

/-- Failure causes of a page (R1, R184). `protection` is PROTECTED. -/
inductive Cause where
  | protection | noCycle | deviceFlag | verify | timeout | offline
  deriving DecidableEq, Repr

/-- States of a page buffer that is not FREE (R1). A FREE record is `none` in the pool. -/
inductive BufferState where
  | gathering | closed | filling | programming | verifying
  deriving DecidableEq, Repr

/-- Device states (R29). -/
inductive DeviceState where
  | absent | waking | idle | cycling | offline
  deriving DecidableEq, Repr

/-- Part states (section 9.3). -/
inductive PartState where
  | loading | stopped | settingUp | running | draining | halted
  deriving DecidableEq, Repr

/-- Zone modes OPEN, LOCKED and GUARDED (R131). -/
inductive ZoneMode where
  | openZone | lockedZone | guardedZone
  deriving DecidableEq, Repr

/-- The two profile copies (R145). -/
inductive CopyId where
  | a
  | b
  deriving DecidableEq, Repr

/-- Phases of the start-up load (R144). -/
inductive LoadPhase where
  | wake0 | readA | readB | wakeRest
  deriving DecidableEq, Repr

/-- Page sizes, codes 0 to 4 (R27). -/
inductive PageSize where
  | b16 | b32 | b64 | b128 | b256
  deriving DecidableEq, Repr

/-- Address widths in bytes (R27). -/
inductive AddressWidth where
  | two
  | three
  deriving DecidableEq, Repr

/-! ### Records shared by several blocks -/

/-- The geometry of a position that is present (R27); a position that is not present is `none`. -/
structure Geometry where
  pageSize : PageSize
  pageCount : Nat
  width : AddressWidth
  cycleTimeout : Nat
  deriving DecidableEq, Repr

/-- A valid zone entry (R131); an entry that is not valid is `none`, its other fields are not used. -/
structure Zone where
  device : DevicePos
  first : Nat
  last : Nat
  mode : ZoneMode
  deriving DecidableEq, Repr

/-- A failed page: the content of a "page failed" result and of a failure list entry (R19, R20). -/
structure PageFailure where
  device : DevicePos
  page : Nat
  cause : Cause
  deriving DecidableEq, Repr

/-- One page span: device address and length (R95, R115). -/
structure Span where
  address : Nat
  length : Nat
  deriving DecidableEq, Repr

/-! ### Page Buffer Pool -/

/-- A page buffer record that is not FREE (R1). `image` has one place per byte of the page: `some` is a byte whose valid
flag is set, `none` one whose flag is clear (R7: such a byte has no content). `linger` is present while the linger timer
runs, and holds the linger time in ms that it was set with. -/
structure Buffer where
  state : BufferState
  device : DevicePos
  page : Nat
  sequence : BitVec 32
  image : List (Option Byte)
  contributors : List EntryId
  posted : Bool
  verify : Bool
  attempts : Nat
  linger : Option Nat
  cause : Option Cause
  deriving DecidableEq, Repr

/-- A standing allocation request (R4). `pressed`: pool pressure has been applied for it (R6). -/
structure AllocRequest where
  device : DevicePos
  page : Nat
  pressed : Bool
  deriving DecidableEq, Repr

/-- The Page Buffer Pool (chapter 1). `none` in `buffers` is a FREE record. -/
structure Pool where
  buffers : Vector (Option Buffer) 16
  sequence : BitVec 32
  linger : Nat
  request : Option AllocRequest
  failures : List PageFailure
  dropped : BitVec 16
  deriving DecidableEq, Repr

/-! ### Order Table -/

/-- What an ended order reports (R90). -/
structure Result where
  status : Status
  count : BitVec 32
  failure : Option PageFailure
  deriving DecidableEq, Repr

/-- The copy a STORE_PROFILE writes, chosen at its start (R153), and the generation it wrote into the record it built
(R154; 0 before the build). -/
structure StoreJob where
  target : CopyId
  generation : BitVec 32
  deriving DecidableEq, Repr

/-- An occupied order entry (R70). `record` keeps every field of the order record as fetched. `failedPages` and
`firstFailure` are the part of the result that a durable order takes in while it runs (R103); `watch` is the order's
list of watched buffers (R95). -/
structure Entry where
  ring : RingId
  slot : Nat
  kind : Kind
  record : OrderRecord
  sequence : Option (BitVec 32)
  state : OrderState
  progress : Nat
  failedPages : Nat
  firstFailure : Option PageFailure
  watch : List BufferId
  store : Option StoreJob
  result : Option Result
  deriving DecidableEq, Repr

/-- The Order Table (chapter 4). `none` is a free entry; `done` is the done queue. -/
structure OrderTable where
  entries : Vector (Option Entry) 32
  sequence : BitVec 32
  done : List EntryId
  deriving DecidableEq, Repr

/-! ### Gather Engine and Read Engine -/

/-- Where the order at its turn takes its bytes: host memory (WRITE), the pattern byte (FILL), the record built for
STORE_PROFILE; or it is a barrier order in its wait (R111). -/
inductive TurnWork where
  | hostData
  | pattern (byte : Byte)
  | profileRecord (bytes : List Byte)
  | barrier
  deriving DecidableEq, Repr

/-- The order at its turn (R95): its span in hand, that span's bytes once they are ready, and the buffers it has merged
into and joined, in order of first merge. -/
structure Turn where
  entry : EntryId
  work : TurnWork
  span : Option Span
  bytes : Option (List Byte)
  touched : List BufferId
  joined : List BufferId
  deriving DecidableEq, Repr

/-- The Gather Engine (R95). -/
structure GatherEngine where
  queue : List EntryId
  turn : Option Turn
  deriving DecidableEq, Repr

/-- One byte of the staging area with its source mark (R115). -/
inductive Staged where
  | needed
  | fromBuffer (byte : Byte)
  | fromDevice (byte : Byte)
  deriving DecidableEq, Repr

/-- The active read with its span in hand and the staging area for it (R115); `assembled`: the span waits for its
delivery or is being delivered (R125). -/
structure ActiveRead where
  entry : EntryId
  span : Span
  staging : List Staged
  assembled : Bool
  deriving DecidableEq, Repr

/-- The Read Engine (R115). The deferred-read marker of a device (R29) is set exactly while its list in `deferred` is
not empty, so it is read off that list (`State.deferredMarker`). -/
structure ReadEngine where
  waiting : List EntryId
  active : Option ActiveRead
  deferred : Vector (List EntryId) 8
  ready : List EntryId
  deriving DecidableEq, Repr

/-! ### Channel Engines -/

/-- On whose behalf a STATUS ASK is sent (R29, R41). -/
inductive AskPurpose where
  | confirming
  | poll
  | wake
  | revive (entry : EntryId)
  deriving DecidableEq, Repr

/-- A waiting work item's frame or frame pair (section 2.6). -/
inductive Work where
  | ask (purpose : AskPurpose)
  | hostRead (entry : EntryId)
  | copyRead (copy : CopyId)
  | fillRead (buffer : BufferId)
  | verifyRead (buffer : BufferId)
  | programStart (buffer : BufferId)
  deriving DecidableEq, Repr

/-- A waiting work item: `since` is the event that queued it, its age (R41). -/
structure WorkItem where
  device : DevicePos
  work : Work
  since : Nat
  deriving DecidableEq, Repr

/-- On whose behalf a STREAM READ is sent. -/
inductive StreamPurpose where
  | hostRead (entry : EntryId)
  | copyRead (copy : CopyId)
  | fillRead (buffer : BufferId)
  | verifyRead (buffer : BufferId)
  deriving DecidableEq, Repr

/-- What a frame carries (R25). A program start is GATE OPEN and PAGE LOAD, granted as one item (R42). -/
inductive FrameContent where
  | ask (purpose : AskPurpose)
  | programStart (buffer : BufferId) (address : Nat) (data : List Byte)
  | stream (purpose : StreamPurpose) (address : Nat) (count : Nat)
  deriving DecidableEq, Repr

/-- The frame in progress on a channel (R24). `width` is the device's address width at the grant; `dropped`: the frame
finishes on the wires and its result is not used (R31, R38). -/
structure Frame where
  device : DevicePos
  content : FrameContent
  width : AddressWidth
  dropped : Bool
  deriving DecidableEq, Repr

/-- One Channel Engine: program queue, frame in progress, waiting work, last granted select (R41, R47). -/
structure ChannelEngine where
  queue : List BufferId
  frame : Option Frame
  waiting : List WorkItem
  lastGranted : Select
  deriving DecidableEq, Repr

/-- The state record of a device position (R29, R30, R44) and its program slot (R47). A running timer holds the time in ms
it was started with; the poll timer always runs for 50 µs. `confirming`: a confirming ask is outstanding (R33). -/
structure DeviceRecord where
  state : DeviceState
  wakeLimit : Option Nat
  cycleTimer : Option Nat
  pollTimer : Bool
  noAnswer : Nat
  confirming : Bool
  slot : Option BufferId
  pagesProgrammed : BitVec 32
  failedAttempts : BitVec 16
  deriving DecidableEq, Repr

/-! ### Zone Table and Profile Loader -/

/-- The Zone Table (R131, R134). -/
structure ZoneTable where
  entries : Vector (Option Zone) 16
  guard : Bool
  deriving DecidableEq, Repr

/-- What a valid profile copy gives (R145, R146). -/
structure Profile where
  generation : BitVec 32
  geometry : Vector (Option Geometry) 8
  zones : Vector (Option Zone) 16
  deriving DecidableEq, Repr

/-- The Profile Loader (R144). A copy known invalid is `none`, one known valid is `some` of its generation. `phase` is
`none` outside LOADING. `judgedA` holds the content of a valid copy A from its judging to the choice (R148, R149), which
the spec implies and does not name. -/
structure Loader where
  bootWidth : AddressWidth
  geometry : Vector (Option Geometry) 8
  copyA : Option (BitVec 32)
  copyB : Option (BitVec 32)
  inUse : Option CopyId
  generation : BitVec 32
  phase : Option LoadPhase
  judgedA : Option Profile
  deriving DecidableEq, Repr

/-! ### Host Port, Ring Fetch, Completion Poster -/

/-- The six kinds of master transfer with what each is for (R157). -/
inductive Job where
  | setupRead
  | orderFetch (ring : RingId) (slot : Nat)
  | completionWrite (entry : EntryId)
  | writeData (entry : EntryId)
  | readData (entry : EntryId)
  | reportStore (entry : EntryId)
  deriving DecidableEq, Repr

/-- The transfer that holds the master engine (R157, R158). `address` is the host address of its first word, `words` their
number; `out` holds the words of a write with their byte enables. `moved` words are in bursts that have ended, `taken`
words of the burst in progress have been taken, `retries` is its retry count. `givenUp`: the requester has given the
transfer up, its result is discarded (R160). -/
structure Transfer where
  job : Job
  givenUp : Bool
  address : Nat
  words : Nat
  out : List (Word × BitVec 4)
  moved : Nat
  taken : Nat
  retries : Nat
  deriving DecidableEq, Repr

/-- A waiting class-2 request of the master arbiter (R159): `since` is the event that made it; `record` is the report
record of a report store (R89), empty otherwise. -/
structure Request where
  job : Job
  since : Nat
  record : List Byte
  deriving DecidableEq, Repr

/-- The Host Port: part state, CONTROL, SETUP_ADDR, FAULT, a pending local reset, and the master engine (R157 to R168).
`setupRequest`: the setup block read waits for its grant. The order fetch and completion write requests are conditions
that hold or do not (R170, R173) and are read off the state. -/
structure HostPort where
  part : PartState
  run : Bool
  intEnable : Bool
  faultIntEnable : Bool
  setupAddr : Word
  fault : BitVec 9
  resetPending : Bool
  setupRequest : Bool
  engine : Option Transfer
  requests : List Request
  deriving DecidableEq, Repr

/-- A configured ring: base address and size in slots (R165). -/
structure Ring where
  base : Nat
  size : Nat
  deriving DecidableEq, Repr

/-- What a good setup block configures (R166); the linger time goes to the Pool. -/
structure RingConfig where
  normal : Ring
  urgent : Ring
  completion : Ring
  threshold : Nat
  deriving DecidableEq, Repr

/-- Ring Fetch (R169, R170): `config` is `none` while the rings are unconfigured. -/
structure RingFetch where
  config : Option RingConfig
  normalHead : Nat
  normalTail : Nat
  urgentHead : Nat
  urgentTail : Nat
  urgentRun : Nat
  deriving DecidableEq, Repr

/-- The Completion Poster (R172, R173): `head` is CHEAD. -/
structure Poster where
  tail : Nat
  head : Nat
  serial : BitVec 16
  deriving DecidableEq, Repr

/-- The lines of the part outside its two buses: HRST asserted, GRD high, INTREQ asserted; and BW high at the last reset's end,
the one moment at which the part looks at it (R147). -/
structure Pins where
  hrst : Bool
  grd : Bool
  bw : Bool
  intreq : Bool
  deriving DecidableEq, Repr

/-! ### The whole part -/

/-- The state of the block. The last four fields are the MODEL's own: `event` numbers the events, so that the ages of
requests and work items compare (R41, R159); `startedGather` and `startedRead` hold, within one event, the orders that
the engines started in it (R91); `pending` is the queue of commands that wait, first in, first out. -/
structure State where
  pins : Pins
  host : HostPort
  fetch : RingFetch
  poster : Poster
  orders : OrderTable
  gather : GatherEngine
  reader : ReadEngine
  pool : Pool
  channels : Vector ChannelEngine 2
  devices : Vector DeviceRecord 8
  zones : ZoneTable
  loader : Loader
  event : Nat
  startedGather : List EntryId
  startedRead : List EntryId
  pending : List Instr
  deriving DecidableEq, Repr

/-! ### The state after a link reset -/

/-- The Pool after either reset (R23). -/
def Pool.reset : Pool where
  buffers := Vector.replicate 16 none
  sequence := 0
  linger := 0
  request := none
  failures := []
  dropped := 0

/-- The Order Table after either reset (R93). -/
def OrderTable.reset : OrderTable where
  entries := Vector.replicate 32 none
  sequence := 0
  done := []

/-- The Gather Engine after either reset (R95, R114). -/
def GatherEngine.reset : GatherEngine where
  queue := []
  turn := none

/-- The Read Engine after either reset (R115, R130). -/
def ReadEngine.reset : ReadEngine where
  waiting := []
  active := none
  deferred := Vector.replicate 8 []
  ready := []

/-- A Channel Engine after either reset: the last granted select is 3 (R41, R45). -/
def ChannelEngine.reset : ChannelEngine where
  queue := []
  frame := none
  waiting := []
  lastGranted := 3

/-- A device record after either reset (R29, R30, R44, R47). -/
def DeviceRecord.reset : DeviceRecord where
  state := .absent
  wakeLimit := none
  cycleTimer := none
  pollTimer := false
  noAnswer := 0
  confirming := false
  slot := none
  pagesProgrammed := 0
  failedAttempts := 0

/-- The Profile Loader after either reset, before the event that begins LOADING (R144). The boot width has no value until
it is taken from BW; two bytes stand here (DESIGN CHOICE, notes/assumptions/2.md). -/
def Loader.reset : Loader where
  bootWidth := .two
  geometry := Vector.replicate 8 none
  copyA := none
  copyB := none
  inUse := none
  generation := 0
  phase := none
  judgedA := none

/-- The Host Port after a link reset (R162, R164): the part state reads LOADING. -/
def HostPort.reset : HostPort where
  part := .loading
  run := false
  intEnable := false
  faultIntEnable := false
  setupAddr := 0
  fault := 0
  resetPending := false
  setupRequest := false
  engine := none
  requests := []

/-- Ring Fetch after either reset (R169, R170). -/
def RingFetch.reset : RingFetch where
  config := none
  normalHead := 0
  normalTail := 0
  urgentHead := 0
  urgentTail := 0
  urgentRun := 0

/-- The Completion Poster after either reset (R172). -/
def Poster.reset : Poster where
  tail := 0
  head := 0
  serial := 0

/-- The part at power-on (R164): HRST asserted, every block in its link reset state, no command waiting. The levels of GRD
and BW at power-on are the board's; released and low stand here (DESIGN CHOICE, notes/assumptions/2.md). -/
def State.reset : State where
  pins := { hrst := true, grd := false, bw := false, intreq := false }
  host := HostPort.reset
  fetch := RingFetch.reset
  poster := Poster.reset
  orders := OrderTable.reset
  gather := GatherEngine.reset
  reader := ReadEngine.reset
  pool := Pool.reset
  channels := Vector.replicate 2 ChannelEngine.reset
  devices := Vector.replicate 8 DeviceRecord.reset
  zones := { entries := Vector.replicate 16 none, guard := false }
  loader := Loader.reset
  event := 0
  startedGather := []
  startedRead := []
  pending := []

/-! ### Faults and refusals -/

/-- The reasons the block could stop. The spec gives no event after which the block stops for good (HALTED is a part
state, left by a reset), so there is none. -/
inductive Fault where
  deriving DecidableEq, Repr

/-- The reasons a command could be refused. -/
inductive Refusal where
  /-- Raised by an arm of `exec` whose command has no meaning yet; no arm raises it. Safe: nothing is claimed of the
  command. -/
  | notModelled (mnemonic : String)
  deriving DecidableEq, Repr

end Sys2Proof.Machine
end

