-- ==== Sys2Proof/Machine/Flags.lean ====
section
/-! DEFINITION. Flags and codes: the device status byte (R26, R188), the FAULT flags (R175, R186), and the codes the records and
registers carry (R183 to R187). -/

namespace Sys2Proof.Machine

/-! ### The device status byte -/

/-- What the engine takes from a status byte (R26): a no-answer, or a good answer with its BUSY and CYCLE_FAULT flags. -/
inductive Answer where
  | none
  | good (busy cycleFault : Bool)
  deriving DecidableEq, Repr

/-- R26, R188: the marker is bits 7 to 4, 1010b for a good answer; BUSY is bit 3, CYCLE_FAULT bit 1; GATE (bit 2) and bit 0
are not acted on. -/
def answerOf (status : Byte) : Answer :=
  if status.extractLsb' 4 4 = 0b1010#4 then .good (status.getLsbD 3) (status.getLsbD 1) else .none

/-! ### FAULT -/

/-- The nine FAULT flags in bit order (R186). -/
inductive FaultFlag where
  | haltSetup | haltFetch | haltPost | badIndex | badSetup | profileNone | profileOneBad | deviceLost | faillistDrop
  deriving DecidableEq, Repr

/-- R186: the bit of a flag in FAULT. -/
def FaultFlag.bit : FaultFlag → Nat
  | .haltSetup => 0 | .haltFetch => 1 | .haltPost => 2 | .badIndex => 3 | .badSetup => 4
  | .profileNone => 5 | .profileOneBad => 6 | .deviceLost => 7 | .faillistDrop => 8

/-- FAULT with one flag set. -/
def FaultFlag.mask (f : FaultFlag) : BitVec 9 := BitVec.twoPow 9 f.bit

/-- A flag is set in the event of its cause; set already, it stays set (R175). -/
def State.setFault (s : State) (f : FaultFlag) : State :=
  { s with host := { s.host with fault := s.host.fault ||| f.mask } }

/-! ### Codes -/

/-- Kind codes (R183). -/
def Kind.code : Kind → Byte
  | .read => 1 | .write => 2 | .fill => 3 | .flush => 4 | .cancel => 5
  | .setZone => 6 | .setGeometry => 7 | .storeProfile => 8 | .revive => 9 | .report => 10
  | .unknown c => c

/-- The kind a code names (R183). -/
def Kind.ofCode (c : Byte) : Kind :=
  match c.toNat with
  | 1 => .read | 2 => .write | 3 => .fill | 4 => .flush | 5 => .cancel
  | 6 => .setZone | 7 => .setGeometry | 8 => .storeProfile | 9 => .revive | 10 => .report
  | _ => .unknown c

/-- Status codes (R184). -/
def Status.code : Status → Byte
  | .ok => 0 | .badOrder => 1 | .noDevice => 2 | .badRange => 3 | .reservedArea => 4 | .protection => 5
  | .deviceOffline => 6 | .pageFailed => 7 | .lateFailures => 8 | .hostFault => 9 | .cancelled => 10 | .profileFull => 11

/-- Cause codes (R184). -/
def Cause.code : Cause → Byte
  | .protection => 1 | .noCycle => 2 | .deviceFlag => 3 | .verify => 4 | .timeout => 5 | .offline => 6

/-- Part state codes (R186). -/
def PartState.code : PartState → Nat
  | .loading => 0 | .stopped => 1 | .settingUp => 2 | .running => 3 | .draining => 4 | .halted => 5

/-- Copy-in-use codes (R186). -/
def copyCode : Option CopyId → Nat
  | none => 0 | some .a => 1 | some .b => 2

/-- Device state codes of the report record (R187). -/
def DeviceState.code : DeviceState → Nat
  | .absent => 0 | .waking => 1 | .idle => 2 | .cycling => 3 | .offline => 4

/-- Buffer state codes of the report record (R187); 0 is FREE. -/
def BufferState.code : BufferState → Nat
  | .gathering => 1 | .closed => 2 | .filling => 3 | .programming => 4 | .verifying => 5

/-- Zone mode codes (R183). -/
def ZoneMode.code : ZoneMode → Nat
  | .openZone => 0 | .lockedZone => 1 | .guardedZone => 2

/-- The mode a code names (R183); codes above 2 are unknown. -/
def ZoneMode.ofCode : Nat → Option ZoneMode
  | 0 => some .openZone | 1 => some .lockedZone | 2 => some .guardedZone | _ => none

/-- Page size codes (R183). -/
def PageSize.code : PageSize → Nat
  | .b16 => 0 | .b32 => 1 | .b64 => 2 | .b128 => 3 | .b256 => 4

/-- The page size a code names (R183); codes above 4 are unknown. -/
def PageSize.ofCode : Nat → Option PageSize
  | 0 => some .b16 | 1 => some .b32 | 2 => some .b64 | 3 => some .b128 | 4 => some .b256 | _ => none

/-- Bytes of a page (R183). -/
def PageSize.bytes : PageSize → Nat
  | .b16 => 16 | .b32 => 32 | .b64 => 64 | .b128 => 128 | .b256 => 256

/-- Bytes of a device address on the wires (R27). -/
def AddressWidth.bytes : AddressWidth → Nat
  | .two => 2 | .three => 3

/-- R145, R183: the address width a record gives. -/
def AddressWidth.ofCode : Nat → Option AddressWidth
  | 2 => some .two | 3 => some .three | _ => none

/-- R28, R147: the address width that the level of BW gives (high: 3 bytes). -/
def AddressWidth.ofBW (high : Bool) : AddressWidth := if high then .three else .two

end Sys2Proof.Machine
end

