-- ==== Sys2Proof/Machine/Layout.lean ====
section
/-! DEFINITION. Bytes and words: the byte layouts of chapter 11 (completion record, report record, profile record, order
payload entries), the CRC of R145, the words of a host transfer with their byte enables (R157), and the bytes a frame
puts on the wires (R25). -/

namespace Sys2Proof.Machine

/-! ### Byte order -/

/-- The low `n` bytes of a number, least significant first (Conventions). -/
def leBytes (n v : Nat) : List Byte := (List.range n).map fun i => BitVec.ofNat 8 (v / 256 ^ i)

/-- The low `n` bytes of a number, most significant first (serial channels). -/
def beBytes (n v : Nat) : List Byte := (leBytes n v).reverse

/-- The number that bytes give, least significant first. -/
def ofLeBytes : List Byte → Nat
  | [] => 0
  | b :: rest => b.toNat + 256 * ofLeBytes rest

/-- A little-endian field of a record: `n` bytes at offset `o`. -/
def fieldAt (bytes : List Byte) (o n : Nat) : Nat := ofLeBytes ((bytes.drop o).take n)

/-- The byte at offset `o` of a record. -/
def byteAt (bytes : List Byte) (o : Nat) : Byte := bytes.getD o 0

/-- The bytes of host words, least significant byte first (R157). -/
def bytesOfWords (words : List Word) : List Byte := words.flatMap fun w => leBytes 4 w.toNat

/-- One host word and its byte enables from four places; an enable is set only for a byte of the transfer (R157). A place whose
enable is clear carries 00h (DESIGN CHOICE: the spec gives such a place no byte, notes/assumptions/21.md). -/
def maskedWord (a b c d : Option Byte) : Word × BitVec 4 :=
  (BitVec.ofNat 32 (ofLeBytes [a.getD 0, b.getD 0, c.getD 0, d.getD 0]),
   BitVec.ofNat 4 (a.isSome.toNat + 2 * b.isSome.toNat + 4 * c.isSome.toNat + 8 * d.isSome.toNat))

/-- Places four by four into words. -/
def maskedChunks : List (Option Byte) → List (Word × BitVec 4)
  | [] => []
  | [a] => [maskedWord a none none none]
  | [a, b] => [maskedWord a b none none]
  | [a, b, c] => [maskedWord a b c none]
  | a :: b :: c :: d :: rest => maskedWord a b c d :: maskedChunks rest

/-- The words of a write transfer of `bytes` at host address `host`, from the word that holds the first byte to the word
that holds the last (R125, R157). -/
def wordsAt (host : Nat) (bytes : List Byte) : List (Word × BitVec 4) :=
  maskedChunks (List.replicate (host % 4) none ++ bytes.map some)

/-- How many words hold the `n` bytes at host address `host` (R99, R157). -/
def wordCount (host n : Nat) : Nat := (host % 4 + n + 3) / 4

/-- R157: a burst ends at the next 64-byte boundary of host address, so it has at most 16 words. -/
def burstWords (address remaining : Nat) : Nat := min remaining (16 - address / 4 % 16)

/-! ### CRC -/

/-- One bit of the CRC-16 with the polynomial x^16 + x^12 + x^5 + 1 (R145). -/
def crcBit (c : BitVec 16) : BitVec 16 := if c.msb then (c <<< 1) ^^^ 0x1021#16 else c <<< 1

/-- One byte of it, most significant bit first. -/
def crcByte (c : BitVec 16) (b : Byte) : BitVec 16 :=
  let c0 := c ^^^ (b.zeroExtend 16 <<< 8)
  crcBit (crcBit (crcBit (crcBit (crcBit (crcBit (crcBit (crcBit c0)))))))

/-- The CRC of R145: initial value FFFFh, no reflection, no final inversion. -/
def crc16 (bytes : List Byte) : BitVec 16 := bytes.foldl crcByte 0xFFFF#16

/-! ### Geometry and zone entries -/

/-- R183: a geometry entry of 8 bytes. The outer `none` is an entry with an unknown code, an address width other than 2 or 3,
or a cycle timeout of 0 (R73, R146); the inner `none` is "not present", whose other fields are not examined. -/
def parseGeometry (bytes : List Byte) : Option (Option Geometry) :=
  match (byteAt bytes 0).toNat with
  | 0 => some none
  | 1 =>
    match PageSize.ofCode (byteAt bytes 1).toNat, AddressWidth.ofCode (byteAt bytes 4).toNat with
    | some size, some width =>
      if byteAt bytes 5 = 0 then none
      else some (some ⟨size, fieldAt bytes 2 2 + 1, width, (byteAt bytes 5).toNat⟩)
    | _, _ => none
  | _ => none

/-- R183: a zone entry of 8 bytes. The outer `none` is a valid entry with a device above 7, an unknown mode code, or a first
page above the last (R73, R146); the inner `none` is "not valid", whose other fields are not examined. -/
def parseZone (bytes : List Byte) : Option (Option Zone) :=
  if (byteAt bytes 0).getLsbD 0 = false then some none
  else
    match ZoneMode.ofCode (byteAt bytes 6).toNat with
    | none => none
    | some mode =>
      if h : (byteAt bytes 1).toNat < 8 then
        if fieldAt bytes 2 2 ≤ fieldAt bytes 4 2 then
          some (some ⟨⟨(byteAt bytes 1).toNat, h⟩, fieldAt bytes 2 2, fieldAt bytes 4 2, mode⟩)
        else none
      else none

/-- R188: a geometry entry as it is written; a position that is not present is all zero. -/
def geometryBytes : Option Geometry → List Byte
  | none => List.replicate 8 0
  | some g => [1, BitVec.ofNat 8 g.pageSize.code] ++ leBytes 2 (g.pageCount - 1)
      ++ [BitVec.ofNat 8 g.width.bytes, BitVec.ofNat 8 g.cycleTimeout, 0, 0]

/-- R188: a zone entry as it is written; an entry that is not valid is all zero. -/
def zoneBytes : Option Zone → List Byte
  | none => List.replicate 8 0
  | some z => [1, BitVec.ofNat 8 z.device.val] ++ leBytes 2 z.first ++ leBytes 2 z.last
      ++ [BitVec.ofNat 8 z.mode.code, 0]

/-! ### Geometry limits -/

/-- R27: the capacity is the page size times the page count. -/
def Geometry.capacity (g : Geometry) : Nat := g.pageSize.bytes * g.pageCount

/-- R27: when a geometry entry is legal (its codes are legal by their types). -/
def Geometry.legal (g : Geometry) : Bool :=
  1 ≤ g.pageCount && g.pageCount ≤ 65536 && 1 ≤ g.cycleTimeout && g.cycleTimeout ≤ 255
    && (g.width = .three || g.capacity ≤ 65536)

/-- R27: when the geometry of all eight positions is legal. -/
def geometryLegal (gs : Vector (Option Geometry) 8) : Bool :=
  (List.finRange 8).all (fun d => match gs[d] with | none => true | some g => g.legal)
    && (match gs[(0 : DevicePos)] with | none => false | some g => 1024 ≤ g.capacity)

/-! ### The profile record -/

/-- R188: the signature bytes and the format. -/
def profileHead : List Byte := [0x5A, 0x56, 0x50, 0x46, 1]

/-- R154: a zone entry as a store of the profile writes it under the working geometry. -/
def zoneToStore (gs : Vector (Option Geometry) 8) : Option Zone → Option Zone
  | none => none
  | some z =>
    match gs[z.device] with
    | none => none
    | some g =>
      if z.first < g.pageCount then some { z with last := min z.last (g.pageCount - 1) } else none

/-- R145, R154, R188: the 256 bytes of a profile record. -/
def profileBytes (generation : BitVec 32) (gs : Vector (Option Geometry) 8) (zs : Vector (Option Zone) 16) : List Byte :=
  let body := profileHead ++ List.replicate 3 0 ++ leBytes 4 generation.toNat
    ++ gs.toList.flatMap geometryBytes ++ (zs.toList.map (zoneToStore gs)).flatMap zoneBytes ++ List.replicate 50 0
  body ++ beBytes 2 (crc16 body).toNat

/-- R146: a valid zone entry lies on a device present in the copy's geometry, inside its pages. -/
def zoneFits (gs : Vector (Option Geometry) 8) : Option Zone → Bool
  | none => true
  | some z => match gs[z.device] with | none => false | some g => z.last < g.pageCount

/-- The eight bytes of geometry entry `d` of a copy (R188). -/
def copyGeometryBytes (bytes : List Byte) (d : Nat) : List Byte := (bytes.drop (12 + 8 * d)).take 8

/-- The eight bytes of zone entry `i` of a copy (R188). -/
def copyZoneBytes (bytes : List Byte) (i : Nat) : List Byte := (bytes.drop (76 + 8 * i)).take 8

/-- R146: the judging of a copy as read, against the boot width. `none`: the copy is invalid. -/
def judgeCopy (bootWidth : AddressWidth) (bytes : List Byte) : Option Profile :=
  let gs : Vector (Option (Option Geometry)) 8 := Vector.ofFn fun d => parseGeometry (copyGeometryBytes bytes d)
  let zs : Vector (Option (Option Zone)) 16 := Vector.ofFn fun i => parseZone (copyZoneBytes bytes i)
  let geometry := gs.map (·.getD none)
  let zones := zs.map (·.getD none)
  if bytes.length = 256 ∧ bytes.take 5 = profileHead
      ∧ crc16 (bytes.take 254) = BitVec.ofNat 16 ((byteAt bytes 254).toNat * 256 + (byteAt bytes 255).toNat)
      ∧ fieldAt bytes 8 4 ≠ 0
      ∧ gs.toList.all (·.isSome) = true ∧ zs.toList.all (·.isSome) = true
      ∧ geometryLegal geometry = true
      ∧ (geometry[(0 : DevicePos)]).map (·.width) = some bootWidth
      ∧ zones.toList.all (zoneFits geometry) = true
  then some ⟨BitVec.ofNat 32 (fieldAt bytes 8 4), geometry, zones⟩
  else none

/-! ### Completion record -/

/-- R184: the 16 bytes of a completion record. -/
def completionBytes (serial : BitVec 16) (e : Entry) (r : Result) : List Byte :=
  leBytes 2 serial.toNat ++ leBytes 2 e.record.tag.toNat
    ++ leBytes 2 (e.slot % 2048 + (if e.ring = .urgent then 32768 else 0))
    ++ [e.kind.code, r.status.code]
    ++ (match r.failure with
        | none => [0xFF, 0] ++ leBytes 2 0
        | some f => [BitVec.ofNat 8 f.device.val, f.cause.code] ++ leBytes 2 f.page)
    ++ leBytes 4 r.count.toNat

/-! ### Frames on the wires -/

/-- R25: the address bytes of a frame, most significant first; with two bytes the low two are sent (R27). -/
def addressBytes (w : AddressWidth) (address : Nat) : List Byte := beBytes w.bytes address

/-- R25: the bytes the part sends on SDO in a frame, frame by frame; a program start is two frames (R42). -/
def Frame.sent (f : Frame) : List (List Byte) :=
  match f.content with
  | .ask _ => [[0x71]]
  | .programStart _ address data => [[0x7C], [0x7A] ++ addressBytes f.width address ++ data]
  | .stream _ address _ => [[0x74] ++ addressBytes f.width address]

/-- R24, R25: the bytes clocked in for a run of `n`. The engine clocks exactly `n`; where the device drives none, the
pull-up on SDI gives FFh. -/
def clocked (n : Nat) (bytes : List Byte) : List Byte := (bytes ++ List.replicate n 0xFF#8).take n

end Sys2Proof.Machine
end

