-- ==== Sys2Proof/Machine/Operands.lean ====
section
/-! DEFINITION. Operands: what the fields of an order record mean (R70, R72, R183), the acceptance checks (R73), byte ranges and page
spans (R81, R98), the judging of a setup block (R165), page images, and the oldest of a list. -/

namespace Sys2Proof

open Machine

/-! ### Order record fields -/

/-- R183: the length, from the record's length − 1 field. -/
def OrderRecord.length (r : OrderRecord) : Nat := r.lengthLess1.toNat + 1

/-- R183: DURABLE is bit 0 of the flags byte. -/
def OrderRecord.durable (r : OrderRecord) : Bool := r.flags.getLsbD 0

/-- R183: VERIFY is bit 1 of the flags byte. -/
def OrderRecord.verify (r : OrderRecord) : Bool := r.flags.getLsbD 1

/-- The device position of an accepted order that names one (R70). -/
def OrderRecord.position (r : OrderRecord) : DevicePos := ⟨r.device.toNat % 8, Nat.mod_lt _ (by decide)⟩

/-- R70: device 15 of a FLUSH means all devices. -/
def OrderRecord.allDevices (r : OrderRecord) : Bool := r.device = 15

/-- The payload as bytes 16 to 23 of the record. -/
def OrderRecord.payloadBytes (r : OrderRecord) : List Byte := leBytes 8 r.payload.toNat

/-- R183: the geometry entry a SET_GEOMETRY carries. -/
def OrderRecord.geometry (r : OrderRecord) : Option (Option Geometry) := parseGeometry r.payloadBytes

/-- R183: the zone entry a SET_ZONE carries. -/
def OrderRecord.zone (r : OrderRecord) : Option (Option Zone) := parseZone r.payloadBytes

/-- R183: the zone index a SET_ZONE carries. -/
def OrderRecord.zoneIndex (r : OrderRecord) : ZoneIndex := ⟨r.selector.toNat % 16, Nat.mod_lt _ (by decide)⟩

/-- R183: the ring a CANCEL names. -/
def OrderRecord.cancelRing (r : OrderRecord) : RingId := if r.selector = 1 then .urgent else .normal

/-- R183: the tag a CANCEL names, in the first two payload bytes. -/
def OrderRecord.cancelTag (r : OrderRecord) : BitVec 16 := r.payload.extractLsb' 0 16

/-! ### The setup block -/

/-- R165: a ring size is a power of two from `lo` to `hi`. -/
def ringSizeOk (lo hi n : Nat) : Bool := lo ≤ n && n ≤ hi && n &&& (n - 1) = 0

/-- R165: a base is a multiple of 64 and the ring ends within the host address space. -/
def ringPlaceOk (base size slotBytes : Nat) : Bool := base % 64 = 0 && base + size * slotBytes ≤ 0x100000000

/-- R165: the block is good. -/
def SetupBlock.good (b : SetupBlock) : Bool :=
  ringPlaceOk b.normalBase.toNat b.normalSize.toNat 32
    && ringPlaceOk b.urgentBase.toNat b.urgentSize.toNat 32
    && ringPlaceOk b.completionBase.toNat b.completionSize.toNat 16
    && ringSizeOk 8 1024 b.normalSize.toNat && ringSizeOk 8 1024 b.urgentSize.toNat
    && ringSizeOk 16 2048 b.completionSize.toNat
    && 1 ≤ b.threshold.toNat && b.threshold.toNat ≤ 64
    && b.reserved = 0

/-- R166: the configuration a good block gives. -/
def SetupBlock.config (b : SetupBlock) : RingConfig where
  normal := ⟨b.normalBase.toNat, b.normalSize.toNat⟩
  urgent := ⟨b.urgentBase.toNat, b.urgentSize.toNat⟩
  completion := ⟨b.completionBase.toNat, b.completionSize.toNat⟩
  threshold := b.threshold.toNat

end Sys2Proof

namespace Sys2Proof.Machine

/-! ### Acceptance checks -/

/-- R73, rows "kind", "must-be-zero bytes" and "flags". -/
def commonChecks (k : Kind) (r : OrderRecord) : Bool :=
  (match k with | .unknown _ => false | _ => true)
    && r.mustBeZero = 0
    && (match k with
        | .write | .fill => r.flags.extractLsb' 2 6 = 0
        | _ => r.flags = 0)

/-- R73, rows "device" to "geometry", for each kind. -/
def kindChecks (k : Kind) (r : OrderRecord) : Bool :=
  let deviceOk := r.device.toNat ≤ 7
  let addressOk := r.address.toNat < 0x1000000
  let bufferOk (n : Nat) : Bool := r.buffer.toNat % 4 = 0 && r.buffer.toNat + n ≤ 0x100000000
  match k with
  | .read | .write => deviceOk && addressOk && bufferOk r.length
  | .fill => deviceOk && addressOk
  | .flush => deviceOk || r.allDevices
  | .cancel => r.selector.toNat ≤ 1
  | .setZone => r.selector.toNat ≤ 15 && r.zone.isSome
  | .setGeometry => deviceOk && r.geometry.isSome
  | .storeProfile => true
  | .revive => deviceOk
  | .report => bufferOk 128
  | .unknown _ => false

/-- R73: the record passes every acceptance check of its kind. -/
def acceptable (k : Kind) (r : OrderRecord) : Bool := commonChecks k r && kindChecks k r

/-! ### What an entry asks for -/

/-- The device position of an order: device 0 for STORE_PROFILE (R112). -/
def Entry.position (x : Entry) : DevicePos := if x.kind = .storeProfile then 0 else x.record.position

/-- R11: the durable orders are WRITE or FILL with DURABLE set, and STORE_PROFILE. -/
def Entry.durable (x : Entry) : Bool :=
  match x.kind with
  | .write | .fill => x.record.durable
  | .storeProfile => true
  | _ => false

/-- R10: the order merges with VERIFY; STORE_PROFILE does so in every case. -/
def Entry.verifies (x : Entry) : Bool := x.kind = .storeProfile || x.record.verify

/-- R145: where a profile copy begins on device 0. -/
def CopyId.address : CopyId → Nat
  | .a => 0 | .b => 512

/-- The device address of an order's first byte: the target copy for STORE_PROFILE (R112). -/
def Entry.base (x : Entry) : Nat :=
  match x.kind, x.store with
  | .storeProfile, some job => job.target.address
  | _, _ => x.record.address.toNat

/-- The number of bytes an order moves: 256 for STORE_PROFILE (R112). -/
def Entry.total (x : Entry) : Nat := if x.kind = .storeProfile then 256 else x.record.length

/-! ### Conflict ranges -/

/-- R81: the byte range an order has in the conflict rules; STORE_PROFILE counts as bytes 0 to 1023 of device 0. -/
def Entry.range (x : Entry) : Option (DevicePos × Nat × Nat) :=
  match x.kind with
  | .read | .write | .fill => some (x.record.position, x.record.address.toNat, x.record.address.toNat + x.record.length)
  | .storeProfile => some (0, 0, 1024)
  | _ => none

/-- R81: two orders overlap when they name the same device and their ranges share a byte. -/
def Entry.overlaps (x y : Entry) : Bool :=
  match x.range, y.range with
  | some (d, lo, hi), some (d', lo', hi') => d = d' && lo < hi' && lo' < hi
  | _, _ => false

/-- The kinds that merge bytes (R82). -/
def Entry.writes (x : Entry) : Bool :=
  match x.kind with
  | .write | .fill | .storeProfile => true
  | _ => false

/-! ### Spans -/

/-- R98, R118: the span that begins at `address` with `left` bytes of the range to go: it ends with the page or the range. -/
def spanFrom (pageSize address left : Nat) : Span := ⟨address, min left (pageSize - address % pageSize)⟩

/-- R7, R98: the first and last page of a range of `n` bytes at `address`. -/
def pagesOf (pageSize address n : Nat) : List Nat :=
  List.range' (address / pageSize) ((address + n - 1) / pageSize + 1 - address / pageSize)

/-! ### Page images -/

/-- R1: the first and one past the last valid byte of an image. -/
def imageBounds (image : List (Option Byte)) : Nat × Nat :=
  (image.findIdx (·.isSome), image.length - image.reverse.findIdx (·.isSome))

/-- The places of an image from `lo` on, `n` of them. -/
def imageSlice (image : List (Option Byte)) (lo n : Nat) : List (Option Byte) := (image.drop lo).take n

/-- R9: bytes merged at offset `lo`; their valid flags are set. -/
def mergeBytes (image : List (Option Byte)) (lo : Nat) (bytes : List Byte) : List (Option Byte) :=
  image.take lo ++ bytes.map some ++ image.drop (lo + bytes.length)

/-- R53: returned bytes put into the holes at offset `lo` on; a byte already valid is kept. -/
def fillHoles (image : List (Option Byte)) (lo : Nat) (bytes : List Byte) : List (Option Byte) :=
  image.take lo ++ List.zipWith (fun old new => some (old.getD new)) (imageSlice image lo bytes.length) bytes
    ++ image.drop (lo + bytes.length)

/-! ### Rings -/

/-- Conventions: ring arithmetic, (tail − head) mod size. -/
def ringCount (size head tail : Nat) : Nat := (tail + size - head) % size

/-- The next slot of a ring. -/
def ringNext (size i : Nat) : Nat := (i + 1) % size

/-! ### Choosing by age -/

/-- The element with the greatest `age`, the first of them where several have it. -/
def oldestBy {α : Type} (age : α → Nat) : List α → Option α
  | [] => none
  | a :: rest =>
    match oldestBy age rest with
    | none => some a
    | some b => if age b ≤ age a then some a else some b

/-- Elements by falling `age`: the oldest first. -/
def oldestFirst {α : Type} (age : α → Nat) (l : List α) : List α := l.insertionSort fun a b => age b ≤ age a

end Sys2Proof.Machine
end

