-- ==== Sys2Proof/Decode.lean ====
section
/-! DEFINITION. Words to commands. The rows of spec/opcode_table.json give no bits, so no word spells a command
(`decodeTableWord`). What the spec does encode is the register window (R162, R186), the 32-byte order record and the 32-byte
setup block: a register write is read here from its register, value and byte enables, and the fields of the two records from
the eight words of the fetch or of the setup read (R183, R185), and written from them. -/

namespace Sys2Proof

open Machine

/-- No row of spec/opcode_table.json gives bits, so no word spells a command. -/
def decodeTableWord (_nbits _w : Nat) : Option Instr := none

/-! ### The register window -/

/-- R162: the register at an offset of the window. -/
def Register.atOffset : Nat → Option Register
  | 0x00 => some .ident
  | 0x04 => some .control
  | 0x08 => some .state
  | 0x0C => some .setupAddr
  | 0x10 => some .ntail
  | 0x14 => some .utail
  | 0x18 => some .chead
  | 0x1C => some .fault
  | _ => none

/-- R163, R186: the command that a write of CONTROL is: LOCAL_RESET is bit 31, RUN bit 0, INT_ENABLE bit 1, FAULT_INT_ENABLE
bit 2; the RUN bit of a write with LOCAL_RESET is not taken, and the part does not act on the other bits. `bw`: the level of
BW in that event. -/
def controlWrite (bw : Bool) (value : Word) : Instr :=
  if value.getLsbD 31 then .localReset (value.getLsbD 1) (value.getLsbD 2) bw
  else if value.getLsbD 0 then .runSet (value.getLsbD 1) (value.getLsbD 2)
  else .runClear (value.getLsbD 1) (value.getLsbD 2)

/-- R161, R186: the command that a write of a register is. -/
def registerWrite (bw : Bool) (r : Register) (value : Word) (byteEnables : BitVec 4) : Instr :=
  if byteEnables ≠ 0b1111#4 then .registerWriteIgnored r value byteEnables
  else
    match r with
    | .ident | .state => .registerWriteIgnored r value byteEnables
    | .control => controlWrite bw value
    | .setupAddr => .setupAddrWrite value
    | .ntail => .ntailWrite value
    | .utail => .utailWrite value
    | .chead => .cheadWrite value
    | .fault => .faultWrite value

/-! ### The eight words of an order slot -/

/-- R183: the fields of the record in the eight words of a slot, byte 4n + k being byte k of word n. -/
def OrderRecord.ofWords (w : Vector Word 8) : OrderRecord where
  tag := w[0].extractLsb' 0 16
  flags := w[0].extractLsb' 24 8
  device := w[1].extractLsb' 0 8
  selector := w[1].extractLsb' 8 8
  lengthLess1 := w[1].extractLsb' 16 16
  address := w[2]
  buffer := w[3]
  payload := w[5] ++ w[4]
  mustBeZero := w[7] ++ w[6]

/-- R183: the kind byte of the record, byte 2. -/
def kindByte (w : Vector Word 8) : Byte := w[0].extractLsb' 16 8

/-- R76: the command that a fetch of these eight words is. -/
def commandOfRecord (code : Byte) (r : OrderRecord) : Instr :=
  match Kind.ofCode code with
  | .read => .read r
  | .write => .write r
  | .fill => .fill r
  | .flush => .flush r
  | .cancel => .cancel r
  | .setZone => .setZone r
  | .setGeometry => .setGeometry r
  | .storeProfile => .storeProfile r
  | .revive => .revive r
  | .report => .report r
  | .unknown c => .unknownKind c r

/-- R171, R183: the command that a good fetch of these eight words is. -/
def decodeSlot (w : Vector Word 8) : Instr := commandOfRecord (kindByte w) (.ofWords w)

/-! ### Writing a slot -/

/-- R183: the eight words of a record with this kind byte. -/
def OrderRecord.toWords (code : Byte) (r : OrderRecord) : Vector Word 8 :=
  #v[r.flags ++ code ++ r.tag, r.lengthLess1 ++ r.selector ++ r.device, r.address, r.buffer,
    r.payload.extractLsb' 0 32, r.payload.extractLsb' 32 32,
    r.mustBeZero.extractLsb' 0 32, r.mustBeZero.extractLsb' 32 32]

/-- The kind byte and the record of a command that is a good fetch. -/
def Instr.slot? : Instr → Option (Byte × OrderRecord)
  | .read r => some (Kind.read.code, r)
  | .write r => some (Kind.write.code, r)
  | .fill r => some (Kind.fill.code, r)
  | .flush r => some (Kind.flush.code, r)
  | .cancel r => some (Kind.cancel.code, r)
  | .setZone r => some (Kind.setZone.code, r)
  | .setGeometry r => some (Kind.setGeometry.code, r)
  | .storeProfile r => some (Kind.storeProfile.code, r)
  | .revive r => some (Kind.revive.code, r)
  | .report r => some (Kind.report.code, r)
  | .unknownKind c r => some (c, r)
  | _ => none

/-- R183: the eight words of the slot that a fetched order is. -/
def encodeSlot (i : Instr) : Option (Vector Word 8) := i.slot?.map fun p => p.2.toWords p.1

/-! ### The setup block -/

/-- R185: the setup block in the eight words of its read, byte 4n + k being byte k of word n. -/
def SetupBlock.ofWords (w : Vector Word 8) : SetupBlock where
  normalBase := w[0]
  urgentBase := w[1]
  completionBase := w[2]
  normalSize := w[3].extractLsb' 0 16
  urgentSize := w[3].extractLsb' 16 16
  completionSize := w[4].extractLsb' 0 16
  threshold := w[4].extractLsb' 16 8
  linger := w[4].extractLsb' 24 8
  reserved := w[7] ++ w[6] ++ w[5]

/-- R185: the eight words of a setup block. -/
def SetupBlock.toWords (b : SetupBlock) : Vector Word 8 :=
  #v[b.normalBase, b.urgentBase, b.completionBase, b.urgentSize ++ b.normalSize,
    b.linger ++ b.threshold ++ b.completionSize,
    b.reserved.extractLsb' 0 32, b.reserved.extractLsb' 32 32, b.reserved.extractLsb' 64 32]

end Sys2Proof
end

