-- ==== Sys2Proof/Config.lean ====
section
/-! DEFINITION. What the model fixes and the spec does not name, and the one free value: the level of BW at a local reset whose
command does not tell it. The spec leaves no result of a command open. -/

namespace Sys2Proof.Config

/-- How many follow-on actions one event may run before the model stops looking for more.
DESIGN CHOICE (notes/assumptions/4.md): the spec says that an event ends when nothing more can follow in it; the longest
event the rules allow (32 FILLs of 4097 spans, each span with its allocation, close, take and end) stays below it. -/
def settleBound : Nat := 1048576

/-- FREE VALUE (DESIGN CHOICE, notes/assumptions/14.md): the level of BW (true: high) at the local reset of event number `n`,
where a pending reset comes about at a burst end told by a command without that level (R147, R163). -/
opaque bwLevel (n : Nat) : Bool

end Sys2Proof.Config
end

