-- ==== Sys2Proof/Machine/Ops.lean ====
section
/-! DEFINITION. The named operations over the parts of State that every family shares: reading and updating an entry, a buffer, a
device, a channel; ages; queueing and withdrawing channel work; the end of an order; the register window; the interrupt
line. -/

namespace Sys2Proof.Machine

/-! ### Places -/

/-- R24: position p is on channel p ÷ 4. -/
def channelOf (d : DevicePos) : ChannelId := ⟨d.val / 4, by omega⟩

/-- R24: position p has select line p mod 4. -/
def selectOf (d : DevicePos) : Select := ⟨d.val % 4, by omega⟩

/-! ### Single updates -/

/-- The entry `e`, if it is occupied. -/
def State.entry? (s : State) (e : EntryId) : Option Entry := s.orders.entries[e]

/-- The buffer `b`, if it is not FREE. -/
def State.buffer? (s : State) (b : BufferId) : Option Buffer := s.pool.buffers[b]

/-- The record of device position `d`. -/
def State.device (s : State) (d : DevicePos) : DeviceRecord := s.devices[d]

/-- The Channel Engine `c`. -/
def State.channel (s : State) (c : ChannelId) : ChannelEngine := s.channels[c]

/-- Change an occupied entry; a free entry stays free. -/
def State.mapEntry (s : State) (e : EntryId) (f : Entry → Entry) : State :=
  { s with orders := { s.orders with entries := s.orders.entries.set e ((s.entry? e).map f) } }

/-- Change every occupied entry. -/
def State.mapEntries (s : State) (f : Entry → Entry) : State :=
  { s with orders := { s.orders with entries := s.orders.entries.map (·.map f) } }

/-- Change a buffer that is not FREE; a FREE record stays FREE. -/
def State.mapBuffer (s : State) (b : BufferId) (f : Buffer → Buffer) : State :=
  { s with pool := { s.pool with buffers := s.pool.buffers.set b ((s.buffer? b).map f) } }

/-- Change every buffer that is not FREE. -/
def State.mapBuffers (s : State) (f : Buffer → Buffer) : State :=
  { s with pool := { s.pool with buffers := s.pool.buffers.map (·.map f) } }

/-- Change the record of a device position. -/
def State.mapDevice (s : State) (d : DevicePos) (f : DeviceRecord → DeviceRecord) : State :=
  { s with devices := s.devices.set d (f (s.device d)) }

/-- Change a Channel Engine. -/
def State.mapChannel (s : State) (c : ChannelId) (f : ChannelEngine → ChannelEngine) : State :=
  { s with channels := s.channels.set c (f (s.channel c)) }

/-- Change the order at its turn. -/
def State.mapTurn (s : State) (f : Turn → Turn) : State :=
  { s with gather := { s.gather with turn := s.gather.turn.map f } }

/-! ### Readings -/

/-- R27: the page size of a position in the working geometry (16 where the position is not present: nothing then asks). -/
def State.pageSize (s : State) (d : DevicePos) : Nat :=
  match s.loader.geometry[d] with | some g => g.pageSize.bytes | none => 16

/-- R27: the page count of a position in the working geometry, 0 where it is not present. -/
def State.pageCount (s : State) (d : DevicePos) : Nat :=
  match s.loader.geometry[d] with | some g => g.pageCount | none => 0

/-- R27: the capacity of a position in the working geometry. -/
def State.capacity (s : State) (d : DevicePos) : Nat := s.pageSize d * s.pageCount d

/-- R27: the address width of a position in the working geometry. -/
def State.addressWidth (s : State) (d : DevicePos) : AddressWidth :=
  match s.loader.geometry[d] with | some g => g.width | none => s.loader.bootWidth

/-- R27: the cycle timeout of a position in the working geometry. -/
def State.cycleTimeout (s : State) (d : DevicePos) : Nat :=
  match s.loader.geometry[d] with | some g => g.cycleTimeout | none => 0

/-- R75: the age of an order, the counter minus its sequence number modulo 2^32; the greater age is the earlier order. -/
def State.orderAge (s : State) (e : EntryId) : Nat :=
  match (s.entry? e).bind (·.sequence) with | some q => (s.orders.sequence - q).toNat | none => 0

/-- R75: order `e` was accepted earlier than order `e'`. -/
def State.earlier (s : State) (e e' : EntryId) : Bool := s.orderAge e' < s.orderAge e

/-- R2: the age of a buffer, the counter minus its sequence modulo 2^32. -/
def State.bufferAge (s : State) (b : BufferId) : Nat :=
  match s.buffer? b with | some x => (s.pool.sequence - x.sequence).toNat | none => 0

/-- The non-FREE buffers that meet a condition, by index. -/
def State.buffersWhere (s : State) (p : Buffer → Bool) : List BufferId :=
  (List.finRange 16).filter fun b => match s.buffer? b with | some x => p x | none => false

/-- The occupied entries that meet a condition, by index. -/
def State.entriesWhere (s : State) (p : Entry → Bool) : List EntryId :=
  (List.finRange 32).filter fun e => match s.entry? e with | some x => p x | none => false

/-- The order at its turn, with its entry. -/
def State.atTurn (s : State) : Option (Turn × Entry) :=
  match s.gather.turn with
  | some t => (s.entry? t.entry).map fun x => (t, x)
  | none => none

/-- R7: the FREE record with the lowest index. -/
def State.lowestFree (s : State) : Option BufferId := (List.finRange 16).find? fun b => (s.buffer? b).isNone

/-- R71: the free entry with the lowest index. -/
def State.lowestFreeEntry (s : State) : Option EntryId := (List.finRange 32).find? fun e => (s.entry? e).isNone

/-- R22: the number of FREE records, 0 to 16. -/
def State.freeBuffers (s : State) : Nat := (s.pool.buffers.toList.filter (·.isNone)).length

/-- R71: the number of occupied entries, 0 to 32. -/
def State.occupancy (s : State) : Nat := (s.orders.entries.toList.filter (·.isSome)).length

/-- R115: the deferred-read marker of a device is set while its deferred read list is not empty. -/
def State.deferredMarker (s : State) (d : DevicePos) : Bool := !(s.reader.deferred[d]).isEmpty

/-- R167: the rings are configured. -/
def State.configured (s : State) : Bool := s.fetch.config.isSome

/-! ### Channel work -/

/-- R41: a work item is queued; it is as old as this event. -/
def State.queueItem (s : State) (d : DevicePos) (w : Work) : State :=
  s.mapChannel (channelOf d) fun c => { c with waiting := c.waiting ++ [⟨d, w, s.event⟩] }

/-- R38: a REVIVE ask, the one item an entry to OFFLINE or ABSENT leaves. -/
def Work.isRevive : Work → Bool
  | .ask (.revive _) => true
  | _ => false

/-- R38, R40: every waiting item for a device but its REVIVE asks is withdrawn. -/
def State.withdrawItems (s : State) (d : DevicePos) : State :=
  s.mapChannel (channelOf d) fun c => { c with waiting := c.waiting.filter fun i => i.device ≠ d || i.work.isRevive }

/-- Waiting items of one kind are withdrawn. -/
def State.withdrawWork (s : State) (d : DevicePos) (w : Work) : State :=
  s.mapChannel (channelOf d) fun c => { c with waiting := c.waiting.filter fun i => i.device ≠ d || i.work ≠ w }

/-- R31, R38: a frame in progress to a device finishes, and its result is not used. The STATUS ASK of a REVIVE stays in use: for a
device that goes OFFLINE (again, after a SET_GEOMETRY had it woken) this is a DESIGN CHOICE between R38, step 2, and R43
(notes/assumptions/25.md), for one that becomes ABSENT see notes/assumptions/11.md. -/
def State.dropFrame (s : State) (d : DevicePos) : State :=
  s.mapChannel (channelOf d) fun c =>
    { c with frame := c.frame.map fun f =>
        if f.device = d && !(match f.content with | .ask (.revive _) => true | _ => false)
        then { f with dropped := true } else f }

/-! ### The end of an order -/

/-- R80, R91: an order goes to DONE with its result. It joins the tail of the done queue; an order started in this very
event joins at the event's end (`State.joinStarted`). -/
def State.goDone (s : State) (e : EntryId) (r : Result) : State :=
  let t := s.mapEntry e fun x => { x with state := .done, result := some r }
  if e ∈ s.startedGather ∨ e ∈ s.startedRead then t
  else { t with orders := { t.orders with done := t.orders.done ++ [e] } }

/-- A result without a failure (R90). -/
def Result.plain (st : Status) (count : Nat) : Result := ⟨st, BitVec.ofNat 32 count, none⟩

/-- The order is DONE. -/
def State.isDone (s : State) (e : EntryId) : Bool :=
  match s.entry? e with | some x => x.state = .done | none => false

/-- R91: at the end of an event the orders that started and ended in it join the done queue, the Gather Engine's first, each
engine's in the order it came to them. -/
def State.joinStarted (s : State) : State :=
  { s with
    orders := { s.orders with done := s.orders.done ++ (s.startedGather ++ s.startedRead).filter s.isDone }
    startedGather := []
    startedRead := [] }

/-- A new event begins: its number is the age of what it queues and requests. Every command is an event of its own, so items of
two commands never tie (DESIGN CHOICE: R41 has events that come together tie, notes/assumptions/23.md). -/
def State.newEvent (s : State) : State := { s with event := s.event + 1, startedGather := [], startedRead := [] }

/-! ### The register window -/

/-- R186: the content of STATE. -/
def State.stateRegister (s : State) : Word :=
  BitVec.ofNat 32 (s.host.part.code + 16 * s.zones.guard.toNat + 256 * copyCode s.loader.inUse
    + 65536 * s.occupancy + 16777216 * s.freeBuffers)

/-- R161, R162, R186: what a read of a register returns, from the release of HRST on. While HRST is asserted the part
answers no access. -/
def State.readRegister (s : State) (r : Register) : Option Word :=
  if s.pins.hrst then none
  else some <|
    match r with
    | .ident => 0xB7412001#32
    | .control => BitVec.ofNat 32 (s.host.run.toNat + 2 * s.host.intEnable.toNat + 4 * s.host.faultIntEnable.toNat)
    | .state => s.stateRegister
    | .setupAddr => s.host.setupAddr
    | .ntail => BitVec.ofNat 32 s.fetch.normalTail
    | .utail => BitVec.ofNat 32 s.fetch.urgentTail
    | .chead => BitVec.ofNat 32 s.poster.head
    | .fault => s.host.fault.zeroExtend 32

/-! ### INTREQ -/

/-- R172: the number of unacknowledged completion records, 0 while the ring is unconfigured. -/
def State.unacknowledged (s : State) : Nat :=
  match s.fetch.config with
  | some c => ringCount c.completion.size s.poster.head s.poster.tail
  | none => 0

/-- R174: the completion condition of INTREQ. -/
def State.completionCondition (s : State) : Bool :=
  match s.fetch.config with
  | none => false
  | some c => c.threshold ≤ s.unacknowledged || (0 < s.unacknowledged && s.occupancy = 0)

/-- R174: the condition under which INTREQ is asserted. -/
def State.intreqCondition (s : State) : Bool :=
  (s.host.intEnable && s.completionCondition) || (s.host.faultIntEnable && s.host.fault ≠ 0)

/-- R174: INTREQ follows its condition. -/
def State.updateIntreq (s : State) : State := { s with pins := { s.pins with intreq := s.intreqCondition } }

end Sys2Proof.Machine
end

