-- ==== Sys2Proof/Machine/Zones.lean ====
section
/-! DEFINITION. Zones and the guard line (chapter 7): which entry covers a page, and effective protection. -/

namespace Sys2Proof.Machine

/-- R132: the entry covers page `p` of device `d`, as far as the device has that page in the working geometry. -/
def State.covers (s : State) (z : Zone) (d : DevicePos) (p : Nat) : Bool :=
  z.device = d && z.first ≤ p && p ≤ z.last && p < s.pageCount d

/-- R133: a covering entry of this mode locks its pages at this guard level. -/
def ZoneMode.locks (m : ZoneMode) (guard : Bool) : Bool :=
  match m with
  | .openZone => false
  | .lockedZone => true
  | .guardedZone => guard

/-- R133: a page is effectively locked when an entry covering it locks it. -/
def State.pageLocked (s : State) (d : DevicePos) (p : Nat) : Bool :=
  s.zones.entries.toList.any fun z =>
    match z with
    | some z => s.covers z d p && z.mode.locks s.zones.guard
    | none => false

/-- R137: the range touches the reserved profile area, bytes 0 to 1023 of device 0. -/
def touchesReserved (d : DevicePos) (address : Nat) : Bool := d = 0 && address < 1024

/-- R138: the guard line is asserted and the entry now at the index is valid with mode GUARDED. -/
def State.guardsIndex (s : State) (i : ZoneIndex) : Bool :=
  s.zones.guard && (match s.zones.entries[i] with | some z => z.mode = .guardedZone | none => false)

end Sys2Proof.Machine
end

