-- ==== Sys2Proof/Machine/Devices.lean ====
section
/-! DEFINITION. Device states and the Profile Loader: waking (R31), entry to IDLE (R39), geometry changes (R40), the choice
and application of a profile (R147 to R149), the start and end of the load, the end of a STORE_PROFILE (R155). -/

namespace Sys2Proof.Machine

/-! ### Waking and returning -/

/-- R31: a device enters WAKING; its wake limit runs for the cycle timeout in force and a wake ask is queued at once. -/
def State.wake (s : State) (d : DevicePos) : State :=
  (s.mapDevice d fun r => { r with
    state := .waking, wakeLimit := some (s.cycleTimeout d), cycleTimer := none, pollTimer := false,
    noAnswer := 0, confirming := false }).queueItem d (.ask .wake)

/-- R124: the reads on the device's deferred read list join the ready set in list order; they stay PARKED. -/
def State.deviceBack (s : State) (d : DevicePos) : State :=
  { s with reader := { s.reader with
      ready := s.reader.ready ++ s.reader.deferred[d]
      deferred := s.reader.deferred.set d [] } }

/-- R147, R148: the boot wake has brought device 0 to IDLE; the stream read of copy A is queued. -/
def State.bootAwake (s : State) (d : DevicePos) : State :=
  if d = 0 ∧ s.loader.phase = some .wake0 then
    { s with loader := { s.loader with phase := some .readA } }.queueItem 0 (.copyRead .a)
  else s

/-- R39: entry to IDLE. Its reads are woken; device 0 in its boot wake lets the load go on. The look at the program queue
follows within the event. A wake ask still waiting, which only a REVIVE answer can meet, is withdrawn (DESIGN CHOICE: R39 and
R43 do not say, notes/assumptions/7.md). -/
def State.enterIdle (s : State) (d : DevicePos) : State :=
  ((((s.mapDevice d fun r => { r with
    state := .idle, wakeLimit := none, cycleTimer := none, pollTimer := false, noAnswer := 0,
    confirming := false }).withdrawWork d (.ask .wake)).deviceBack d).bootAwake d)

/-! ### Geometry -/

/-- R40: the Channel Engine acts on a change of a position's geometry, after the geometry has been replaced. -/
def State.geometryChanged (s : State) (d : DevicePos) (before after : Bool) : State :=
  match before, after with
  | true, false =>
    ((s.mapDevice d fun r => { r with
      state := .absent, wakeLimit := none, cycleTimer := none, pollTimer := false, noAnswer := 0,
      confirming := false }).withdrawItems d).dropFrame d
  | false, true => s.wake d
  | true, true =>
    match (s.device d).state with
    | .offline => s.wake d
    | .waking => s.mapDevice d fun r => { r with wakeLimit := some (s.cycleTimeout d) }
    | _ => s
  | false, false => s

/-- The working geometry of one position is replaced, without the Channel Engine's part. -/
def State.setGeometry (s : State) (d : DevicePos) (g : Option Geometry) : State :=
  { s with loader := { s.loader with geometry := s.loader.geometry.set d g } }

/-- R152: the new geometry of a position is applied, and the device state changes by R40 in the same event. -/
def State.applyGeometry (s : State) (d : DevicePos) (g : Option Geometry) : State :=
  (s.setGeometry d g).geometryChanged d (s.loader.geometry[d]).isSome g.isSome

/-- R28: the boot geometry of position 0. Its cycle timeout stands for the wake limit of 255 ms. -/
def bootGeometry (w : AddressWidth) : Geometry := ⟨.b16, 64, w, 255⟩

/-- R28: the default geometry. -/
def defaultGeometry (w : AddressWidth) : Vector (Option Geometry) 8 :=
  (Vector.replicate 8 none).set 0 (some ⟨.b16, 64, w, 20⟩)

/-! ### The profile -/

/-- R149: a choice is applied: geometry and zones, copy in use, generation; positions 1 to 7 act by R40 and position 0
keeps its state; the phase becomes WAKE_REST. -/
def State.applyProfile (s : State) (used : Option CopyId) (generation : BitVec 32)
    (geometry : Vector (Option Geometry) 8) (zones : Vector (Option Zone) 16) : State :=
  let t := { s with
    loader := { s.loader with geometry, inUse := used, generation, phase := some .wakeRest, judgedA := none }
    zones := { s.zones with entries := zones } }
  ([1, 2, 3, 4, 5, 6, 7] : List DevicePos).foldl
    (fun t d => t.geometryChanged d (s.loader.geometry[d]).isSome (geometry[d]).isSome) t

/-- R147, R149: no copy is used: the default geometry, an empty zone table, PROFILE_NONE. -/
def State.applyDefault (s : State) : State :=
  ({ s with loader := { s.loader with copyA := none, copyB := none } }.applyProfile none 0
    (defaultGeometry s.loader.bootWidth) (Vector.replicate 16 none)).setFault .profileNone

/-- R149: the choice between the two judged copies. -/
def State.chooseProfile (s : State) (a b : Option Profile) : State :=
  match a, b with
  | some pa, some pb =>
    if pa.generation.toNat < pb.generation.toNat
    then s.applyProfile (some .b) pb.generation pb.geometry pb.zones
    else s.applyProfile (some .a) pa.generation pa.geometry pa.zones
  | some pa, none => (s.applyProfile (some .a) pa.generation pa.geometry pa.zones).setFault .profileOneBad
  | none, some pb => (s.applyProfile (some .b) pb.generation pb.geometry pb.zones).setFault .profileOneBad
  | none, none => s.applyDefault

/-- R153: the target copy of a store, from the copy knowledge. -/
def Loader.target (l : Loader) : CopyId :=
  match l.copyA, l.copyB with
  | none, _ => .a
  | some _, none => .b
  | some a, some b => if a.toNat < b.toNat then .a else .b

/-- What the Loader believes of a copy is replaced. -/
def Loader.setKnown (l : Loader) (c : CopyId) (g : Option (BitVec 32)) : Loader :=
  match c with
  | .a => { l with copyA := g }
  | .b => { l with copyB := g }

/-- R155: the Loader's state at the end of a STORE_PROFILE that gathered. -/
def State.storeEnded (s : State) (job : StoreJob) (good : Bool) : State :=
  if good then
    { s with loader := { s.loader.setKnown job.target (some job.generation) with
        inUse := some job.target, generation := job.generation } }
  else { s with loader := s.loader.setKnown job.target none }

/-! ### The load -/

/-- R147: the event that begins LOADING. BW is taken, position 0 receives the boot geometry and wakes. -/
def State.beginLoading (s : State) : State :=
  { s with
    host := { s.host with part := .loading }
    zones := { s.zones with guard := s.pins.grd }
    loader := { s.loader with
      bootWidth := AddressWidth.ofBW s.pins.bw
      geometry := s.loader.geometry.set 0 (some (bootGeometry (AddressWidth.ofBW s.pins.bw)))
      phase := some .wake0 } }.wake 0

/-- R166: SETTING_UP is entered, and the setup block read is requested. -/
def State.enterSettingUp (s : State) : State :=
  { s with host := { s.host with part := .settingUp, setupRequest := true } }

/-- R150: the load ends when the phase is WAKE_REST and no position is WAKING; RUN decides the state that follows. -/
def State.loadEnd? (s : State) : Option State :=
  if s.loader.phase = some .wakeRest ∧ s.host.part = .loading
      ∧ (s.devices.toList.all fun r => r.state ≠ .waking) = true then
    let t := { s with loader := { s.loader with phase := none } }
    some (if s.host.run then t.enterSettingUp
          else { t with host := { t.host with part := .stopped } })
  else none

end Sys2Proof.Machine
end

