-- ==== Sys2Proof/Machine/Pool.lean ====
section
/-! DEFINITION. The Page Buffer Pool (chapter 1): closing (R17), the failure list (R20, R21), the end of a buffer (R19) with the page
results it gives (R103), the FLUSH report (R108), the action of a barrier order (R111), and allocation (R7). -/

namespace Sys2Proof.Machine

/-! ### Closing -/

/-- R17: a GATHERING buffer becomes CLOSED and joins the tail of its channel's program queue; any other is left alone. -/
def State.closeBuffer (s : State) (b : BufferId) : State :=
  match s.buffer? b with
  | some x =>
    if x.state = .gathering then
      (s.mapBuffer b fun x => { x with state := .closed, linger := none }).mapChannel (channelOf x.device)
        fun c => { c with queue := c.queue ++ [b] }
    else s
  | none => s

/-- Buffers closed one after another. -/
def State.closeAll (s : State) (bs : List BufferId) : State := bs.foldl State.closeBuffer s

/-- R16: the GATHERING buffers that meet a condition, oldest first. -/
def State.gatheringWhere (s : State) (p : Buffer → Bool) : List BufferId :=
  oldestFirst s.bufferAge (s.buffersWhere fun x => x.state = .gathering && p x)

/-! ### The failure list -/

/-- R20: a posted page that failed is listed, or counted as a drop when the list holds 8. -/
def State.noteFailure (s : State) (f : PageFailure) : State :=
  if s.pool.failures.length < 8 then
    { s with pool := { s.pool with failures := s.pool.failures ++ [f] } }
  else
    let t := { s with pool := { s.pool with
      dropped := if s.pool.dropped = 0xFFFF#16 then s.pool.dropped else s.pool.dropped + 1 } }
    if s.pool.dropped = 0 then t.setFault .faillistDrop else t

/-! ### Page results -/

/-- R103: the result a durable order ends with. -/
def Entry.durableResult (x : Entry) : Result :=
  if x.failedPages = 0 then Result.plain .ok x.total
  else ⟨.pageFailed, BitVec.ofNat 32 x.failedPages, x.firstFailure⟩

/-- R103, R155: a durable order whose last page result has arrived goes to DONE. -/
def State.endDurable (s : State) (e : EntryId) : State :=
  match s.entry? e with
  | none => s
  | some x =>
    (match x.store with
     | some job => s.storeEnded job (x.failedPages = 0)
     | none => s).goDone e x.durableResult

/-- R103: a page result is taken into the order's result; in HELD it also lowers the progress. -/
def Entry.takeResult (x : Entry) (failure : Option PageFailure) : Entry :=
  { x with
    failedPages := if failure.isSome then x.failedPages + 1 else x.failedPages
    firstFailure := if x.firstFailure.isSome then x.firstFailure else failure
    progress := if x.state = .held then x.progress - 1 else x.progress }

/-- R19, R103: one contributor receives its page result; it goes to DONE when a HELD order's progress reaches 0. -/
def State.giveResult (s : State) (failure : Option PageFailure) (e : EntryId) : State :=
  match s.entry? e with
  | none => s
  | some x =>
    let t := s.mapEntry e (·.takeResult failure)
    if x.state = .held ∧ (x.takeResult failure).progress = 0 then t.endDurable e else t

/-! ### FLUSH -/

/-- R107: a device lies in the scope of a FLUSH. -/
def Entry.inScope (x : Entry) (d : DevicePos) : Bool := x.record.allDevices || x.record.position = d

/-- R108: what a FLUSH reports from the failure list and the dropped counter. -/
def State.flushResult (s : State) (x : Entry) : Result :=
  let removed := s.pool.failures.filter fun f => x.inScope f.device
  ⟨if removed = [] then .ok else .lateFailures,
   BitVec.ofNat 32 (removed.length + 65536 * (if x.record.allDevices then s.pool.dropped.toNat else 0)),
   removed.head?⟩

/-- R21, R108: a FLUSH whose watch is empty takes the entries of its scope, and the dropped counter if it is for all
devices, and goes to DONE. -/
def State.reportFlush (s : State) (e : EntryId) : State :=
  match s.entry? e with
  | none => s
  | some x =>
    { s with pool := { s.pool with
        failures := s.pool.failures.filter fun f => !x.inScope f.device
        dropped := if x.record.allDevices then 0 else s.pool.dropped } }.goDone e (s.flushResult x)

/-- R109: the HELD FLUSH orders whose watch is empty, by ascending sequence. -/
def State.flushesDue (s : State) : List EntryId :=
  oldestFirst s.orderAge (s.entriesWhere fun x => x.kind = .flush && x.state = .held && x.watch = [])

/-- R109: every FLUSH whose watch is empty reports, by ascending sequence. -/
def State.reportFlushes (s : State) : State := s.flushesDue.foldl State.reportFlush s

/-! ### Barrier orders -/

/-- R96: the turn is given up; the touched and joined lists are emptied with it. -/
def State.releaseTurn (s : State) : State := { s with gather := { s.gather with turn := none } }

/-- R139: a SET_ZONE acts: the guard is checked again, the entry is replaced or the order ends PROTECTED. -/
def State.actSetZone (s : State) (e : EntryId) (x : Entry) : State :=
  if s.guardsIndex x.record.zoneIndex then (s.goDone e (.plain .protection 0)).releaseTurn
  else
    ({ s with zones := { s.zones with
        entries := s.zones.entries.set x.record.zoneIndex (x.record.zone.getD none) } }.goDone e
      (.plain .ok 0)).releaseTurn

/-- R152: a SET_GEOMETRY acts: the geometry is applied and the order ends OK. -/
def State.actSetGeometry (s : State) (e : EntryId) (x : Entry) : State :=
  ((s.applyGeometry x.position (x.record.geometry.getD none)).goDone e (.plain .ok 0)).releaseTurn

/-- R112, R154: a STORE_PROFILE acts: it ends DEVICE_OFFLINE, or its record is built and its gather begins. From
generation FFFFFFFFh, which an earlier store that was HELD at this one's start may have brought about, the number wraps to 0
(DESIGN CHOICE: R153 checks the generation at the start alone, and R154 gives none above it, notes/assumptions/24.md). -/
def State.actStoreProfile (s : State) (e : EntryId) : State :=
  if (s.device 0).state = .offline then (s.goDone e (.plain .deviceOffline 0)).releaseTurn
  else
    let generation := s.loader.generation + 1
    (s.mapEntry e fun x => { x with
        progress := 0, store := x.store.map fun j => { j with generation := generation } }).mapTurn
      fun t => { t with work := .profileRecord (profileBytes generation s.loader.geometry s.zones.entries) }

/-- R111: the barrier order that holds the turn, if its watch is empty. -/
def State.barrierDue (s : State) : Option (EntryId × Entry) :=
  match s.atTurn with
  | some (t, x) => if t.work = .barrier ∧ x.watch = [] then some (t.entry, x) else none
  | none => none

/-- R111: in the event in which its watch becomes empty, the barrier order that holds the turn acts. -/
def State.actBarrier (s : State) : State :=
  match s.barrierDue with
  | none => s
  | some (e, x) =>
    match x.kind with
    | .setZone => s.actSetZone e x
    | .setGeometry => s.actSetGeometry e x
    | .storeProfile => s.actStoreProfile e
    | _ => s

/-! ### The end of a buffer -/

/-- R19, R108, R111: the freed record leaves the watch of every order that waits for it. -/
def Entry.unwatch (x : Entry) (b : BufferId) : Entry :=
  if b ∈ x.watch then { x with watch := x.watch.filter (· ≠ b), progress := x.progress - 1 } else x

/-- R19, R102: the record is set to FREE, its program queue place and program slot are given up, and it leaves the
touched and joined lists and every watch. -/
def State.freeBuffer (s : State) (b : BufferId) (d : DevicePos) : State :=
  ((({ s with pool := { s.pool with buffers := s.pool.buffers.set b none } }.mapChannel (channelOf d)
      fun c => { c with queue := c.queue.filter (· ≠ b) }).mapDevice d
      fun r => if r.slot = some b then { r with slot := none } else r).mapTurn
      fun t => { t with touched := t.touched.filter (· ≠ b), joined := t.joined.filter (· ≠ b) }).mapEntries
      fun x => x.unwatch b

/-- R19, steps 1 to 4, without what the freed record sets off: results to the contributors in list order, the failure list,
FREE, the watches. `failure` is the cause of a failed end, `none` for success. -/
def State.endBufferQuiet (s : State) (b : BufferId) (failure : Option Cause) : State :=
  match s.buffer? b with
  | none => s
  | some x =>
    let failed := failure.map fun c => (⟨x.device, x.page, c⟩ : PageFailure)
    let t := x.contributors.foldl (fun t e => t.giveResult failed e) s
    let u := match failed with
      | some f => if x.posted then t.noteFailure f else t
      | none => t
    u.freeBuffer b x.device

/-- R19, R91: the end of one buffer as an event of its own: then the FLUSH orders whose watch emptied report, and a barrier
order whose watch emptied acts. A standing allocation request that the freed record serves goes on after them, among the
follow-on actions of the event (DESIGN CHOICE: R19, step 4, gives no order, notes/assumptions/20.md). -/
def State.endBuffer (s : State) (b : BufferId) (failure : Option Cause) : State :=
  (s.endBufferQuiet b failure).reportFlushes.actBarrier

/-! ### Allocation -/

/-- R7: the FREE record becomes GATHERING for a page. -/
def State.allocate (s : State) (b : BufferId) (d : DevicePos) (page : Nat) : State :=
  { s with pool := { s.pool with
      buffers := s.pool.buffers.set b (some {
        state := .gathering, device := d, page := page, sequence := s.pool.sequence
        image := List.replicate (s.pageSize d) none, contributors := [], posted := false, verify := false
        attempts := 0, linger := none, cause := none })
      sequence := s.pool.sequence + 1 } }

/-- R4: the buffer of a page in one of two states, if there is one. -/
def State.bufferOf (s : State) (st : BufferState) (d : DevicePos) (page : Nat) : Option BufferId :=
  (s.buffersWhere fun x => x.state = st && x.device = d && x.page = page).head?

end Sys2Proof.Machine
end

