-- ==== Sys2Proof/Machine/Gather.lean ====
section
/-! DEFINITION. The Gather Engine (chapter 5): the gather queue and the conflict rules for it (R83, R84), the start of each kind,
spans, merging (R9, R100), allocation requests (R4 to R7), the ends of a gather (R101, R102, R104, R105). -/

namespace Sys2Proof.Machine

/-! ### Master requests of class 2 -/

/-- R159: a class-2 request waits at the master arbiter; it is as old as this event. -/
def State.requestMaster (s : State) (job : Job) (record : List Byte) : State :=
  { s with host := { s.host with requests := s.host.requests ++ [⟨job, s.event, record⟩] } }

/-- R159, R160: a requester gives its request up: a waiting request is withdrawn, a transfer on the bus runs to its end and
its result is discarded. -/
def State.giveUp (s : State) (job : Job) : State :=
  { s with host := { s.host with
      requests := s.host.requests.filter fun r => r.job ≠ job
      engine := s.host.engine.map fun t => if t.job = job then { t with givenUp := true } else t } }

/-! ### Conflict rules -/

/-- R83, R84: a READ that has not yet taken its last bytes. -/
def OrderState.holdsWrites : OrderState → Bool
  | .waiting | .active | .parked => true
  | _ => false

/-- R83, R84: the gather-queue order `e` may start. FLUSH and SET_ZONE are never held back. -/
def State.mayStartGather (s : State) (e : EntryId) : Bool :=
  match s.entry? e with
  | none => false
  | some x =>
    (List.finRange 32).all fun e' =>
      match s.entry? e' with
      | none => true
      | some y =>
        !(s.earlier e' e && y.kind = .read && y.state.holdsWrites
          && ((x.writes && y.overlaps x) || (x.kind = .setGeometry && y.position = x.position)))

/-! ### Contributors -/

/-- R13: the order leaves the contributor list of every buffer. -/
def State.leaveContributors (s : State) (e : EntryId) : State :=
  s.mapBuffers fun y => { y with contributors := y.contributors.filter (· ≠ e) }

/-! ### The end of a gather -/

/-- R101, R102: the order at its turn has merged its last span. -/
def State.endGather (s : State) : State :=
  match s.atTurn with
  | none => s
  | some (t, x) =>
    if x.durable then
      let u := s.closeAll t.joined
      let n := (u.buffersWhere fun y => t.entry ∈ y.contributors).length
      if n = 0 then (u.endDurable t.entry).releaseTurn
      else (u.mapEntry t.entry fun x => { x with state := .held, progress := n }).releaseTurn
    else
      ((if s.pool.linger = 0 then s.closeAll t.touched else s).goDone t.entry (.plain .ok x.total)).releaseTurn

/-- R104: a host fault on a WRITE's data ends the order at its turn. -/
def State.failWrite (s : State) : State :=
  match s.atTurn with
  | none => s
  | some (t, x) =>
    (((s.leaveContributors t.entry).closeAll (if s.pool.linger = 0 then t.touched else t.joined)).goDone t.entry
      (.plain .hostFault x.progress)).releaseTurn

/-- R105, R112, R155: the device of the order gathering at its turn has gone OFFLINE; its buffers have ended. A barrier
order in its wait is not ended by this. -/
def State.gatherOffline (s : State) (d : DevicePos) : State :=
  match s.atTurn with
  | none => s
  | some (t, x) =>
    if x.position = d ∧ t.work ≠ .barrier then
      ((((match x.store with
          | some job => s.storeEnded job false
          | none => s).giveUp (.writeData t.entry)).leaveContributors t.entry).goDone t.entry
        (.plain .deviceOffline x.progress)).releaseTurn
    else s

/-! ### Merging -/

/-- A reference appended once. -/
def addOnce (b : BufferId) (l : List BufferId) : List BufferId := if b ∈ l then l else l ++ [b]

/-- R9, R10, R11: what a merge of `bytes` at offset `lo` does to the buffer. -/
def State.mergedBuffer (s : State) (e : EntryId) (x : Entry) (lo : Nat) (bytes : List Byte) (y : Buffer) : Buffer :=
  { y with
    image := mergeBytes y.image lo bytes
    linger := if s.pool.linger = 0 then none else some s.pool.linger
    posted := y.posted || !x.durable
    verify := y.verify || x.verifies || touchesReserved y.device (y.page * s.pageSize y.device)
    contributors := if x.durable = true ∧ e ∉ y.contributors then y.contributors ++ [e] else y.contributors }

/-- R9: every byte of the page is valid. -/
def State.pageFull (s : State) (b : BufferId) : Bool :=
  match s.buffer? b with
  | some y => y.image.all (·.isSome)
  | none => false

/-- R9, R100: the span in hand is merged into buffer `b` in one event: data and valid flags, linger expiry, marks,
contributor list; progress, touched and joined list; a full page closes; the last span ends the gather. -/
def State.mergeSpan (s : State) (t : Turn) (x : Entry) (sp : Span) (bytes : List Byte) (b : BufferId) : State :=
  let u := s.mapBuffer b (s.mergedBuffer t.entry x (sp.address % s.pageSize x.position) bytes)
  let v := (u.mapEntry t.entry fun x => { x with progress := x.progress + sp.length }).mapTurn fun t =>
    { t with span := none, bytes := none, touched := addOnce b t.touched
             joined := if x.durable then addOnce b t.joined else t.joined }
  let w := if v.pageFull b then v.closeBuffer b else v
  if x.total ≤ x.progress + sp.length then w.endGather else w

/-- R4: the page of the span in hand asks for an allocation. -/
def State.requestBuffer (s : State) (d : DevicePos) (page : Nat) : State :=
  { s with pool := { s.pool with request := some ⟨d, page, false⟩ } }

/-- R4, R12: the Pool is asked for the GATHERING buffer of the span's page. -/
def State.askPool (s : State) (t : Turn) (x : Entry) (sp : Span) (bytes : List Byte) : State :=
  let page := sp.address / s.pageSize x.position
  match s.bufferOf .gathering x.position page with
  | none => s.requestBuffer x.position page
  | some b =>
    match s.buffer? b with
    | some y =>
      if x.durable = true ∧ t.entry ∉ y.contributors ∧ 8 ≤ y.contributors.length
      then (s.closeBuffer b).requestBuffer x.position page
      else s.mergeSpan t x sp bytes b
    | none => s

/-- R6: pool pressure: the oldest GATHERING buffer is closed, once for the request. -/
def State.applyPressure (s : State) (r : AllocRequest) : State :=
  (match oldestBy s.bufferAge (s.buffersWhere fun y => y.state = .gathering) with
   | some b => s.closeBuffer b
   | none => s) |> fun u => { u with pool := { u.pool with request := some { r with pressed := true } } }

/-- R7: the standing request is served by the FREE record `b`, and the merge it was made for takes place. -/
def State.serveWith (s : State) (t : Turn) (x : Entry) (sp : Span) (bytes : List Byte) (r : AllocRequest)
    (b : BufferId) : State :=
  ({ s with pool := { s.pool with request := none } }.allocate b r.device r.page).mergeSpan t x sp bytes b

/-- R5, R6, R7: what a standing request can do in this event, if anything. -/
def State.workRequest (s : State) (t : Turn) (x : Entry) (sp : Span) (bytes : List Byte) (r : AllocRequest) :
    Option State :=
  if (s.bufferOf .closed r.device r.page).isSome then none
  else
    match s.lowestFree with
    | some b => some (s.serveWith t x sp bytes r b)
    | none => if r.pressed then none else some (s.applyPressure r)

/-- R7: a standing request that a FREE record can serve now. -/
def State.serveRequest? (s : State) : Option State :=
  match s.atTurn, s.pool.request, s.lowestFree with
  | some (t, x), some r, some b =>
    match t.span, t.bytes with
    | some sp, some bytes =>
      if (s.bufferOf .closed r.device r.page).isSome then none else some (s.serveWith t x sp bytes r b)
    | _, _ => none
  | _, _, _ => none

/-- R98, R99: the order at its turn takes its next span; a WRITE requests its data from host memory, the bytes of a FILL
and of a STORE_PROFILE are ready at once. -/
def State.takeGatherSpan (s : State) (t : Turn) (x : Entry) : State :=
  let sp := spanFrom (s.pageSize x.position) (x.base + x.progress) (x.total - x.progress)
  match t.work with
  | .hostData =>
    (s.mapTurn fun t => { t with span := some sp, bytes := none }).requestMaster (.writeData t.entry) []
  | .pattern byte =>
    s.mapTurn fun t => { t with span := some sp, bytes := some (List.replicate sp.length byte) }
  | .profileRecord record =>
    s.mapTurn fun t => { t with span := some sp, bytes := some ((record.drop x.progress).take sp.length) }
  | .barrier => s

/-! ### Starts -/

/-- R78, R96: the head order leaves the gather queue and goes to ACTIVE. -/
def State.leaveQueue (s : State) (e : EntryId) : State :=
  { s.mapEntry e fun x => { x with state := .active } with
    gather := { s.gather with queue := s.gather.queue.filter (· ≠ e) }
    startedGather := s.startedGather ++ [e] }

/-- R96: the order becomes the order at its turn. -/
def State.beginTurn (s : State) (e : EntryId) (work : TurnWork) : State :=
  { s with gather := { s.gather with turn := some ⟨e, work, none, none, [], []⟩ } }

/-- R97: the start checks of a WRITE or FILL, in order; the first that fails gives the status. -/
def State.writeCheck (s : State) (x : Entry) : Option Status :=
  let d := x.position
  let a := x.record.address.toNat
  let n := x.record.length
  if (s.device d).state = .absent then some .noDevice
  else if (s.device d).state = .offline then some .deviceOffline
  else if s.capacity d < a + n then some .badRange
  else if touchesReserved d a then some .reservedArea
  else if (pagesOf (s.pageSize d) a n).any (s.pageLocked d) then some .protection
  else none

/-- R97, R98: a WRITE or FILL starts. -/
def State.startMerging (s : State) (e : EntryId) (x : Entry) (work : TurnWork) : State :=
  match s.writeCheck x with
  | some st => (s.leaveQueue e).goDone e (.plain st 0)
  | none => (s.leaveQueue e).beginTurn e work

/-- R16, R107, R110: the GATHERING buffers in scope are closed, oldest first, and every non-FREE buffer in scope is watched. -/
def State.takeWatch (s : State) (e : EntryId) (st : OrderState) (inScope : Buffer → Bool) : State :=
  let u := s.closeAll (s.gatheringWhere inScope)
  let watch := u.buffersWhere inScope
  u.mapEntry e fun x => { x with state := st, watch := watch, progress := watch.length }

/-- R107: a FLUSH starts. -/
def State.startFlush (s : State) (e : EntryId) (x : Entry) : State :=
  let u := s.leaveQueue e
  if x.record.allDevices = false ∧ (s.device x.position).state = .absent then u.goDone e (.plain .noDevice 0)
  else
    let scope := fun (y : Buffer) => x.inScope y.device
    if s.buffersWhere scope = [] then u.reportFlush e else u.takeWatch e .held scope

/-- R110, R111: a barrier order that has passed its checks takes the turn and its watch, and acts at once where the watch is
empty. -/
def State.startBarrier (s : State) (e : EntryId) (st : OrderState) (concerned : Buffer → Bool) : State :=
  (((s.leaveQueue e).beginTurn e .barrier).takeWatch e st concerned).actBarrier

/-- R138: the start check of a SET_ZONE. -/
def State.setZoneCheck (s : State) (x : Entry) : Option Status :=
  if s.guardsIndex x.record.zoneIndex then some .protection
  else
    match x.record.zone.getD none with
    | none => none
    | some z => if s.pageCount z.device ≤ z.last then some .badRange else none

/-- R110: a buffer whose page an optional zone entry covers. -/
def State.coversBuffer (s : State) (z : Option Zone) (y : Buffer) : Bool :=
  match z with
  | some z => s.covers z y.device y.page
  | none => false

/-- R138: a SET_ZONE starts. -/
def State.startSetZone (s : State) (e : EntryId) (x : Entry) : State :=
  match s.setZoneCheck x with
  | some st => (s.leaveQueue e).goDone e (.plain st 0)
  | none =>
    s.startBarrier e .held fun y =>
      s.coversBuffer s.zones.entries[x.record.zoneIndex] y || s.coversBuffer (x.record.zone.getD none) y

/-- R151: the start checks of a SET_GEOMETRY pass. -/
def State.setGeometryOk (s : State) (x : Entry) : Bool :=
  match x.record.geometry.getD none with
  | none => x.position ≠ 0
  | some g =>
    (g.width = .three || g.capacity ≤ 65536)
      && (x.position ≠ 0 || (1024 ≤ g.capacity && g.width = s.loader.bootWidth))

/-- R151, R152: a SET_GEOMETRY starts. -/
def State.startSetGeometry (s : State) (e : EntryId) (x : Entry) : State :=
  if s.setGeometryOk x then s.startBarrier e .held fun y => y.device = x.position
  else (s.leaveQueue e).goDone e (.plain .badOrder 0)

/-- R110: a buffer's page holds bytes of a profile copy. -/
def State.inCopy (s : State) (c : CopyId) (y : Buffer) : Bool :=
  y.device = 0 && y.page * s.pageSize 0 < c.address + 256 && c.address < (y.page + 1) * s.pageSize 0

/-- R153: a STORE_PROFILE starts: its checks, its target copy, its watch. -/
def State.startStoreProfile (s : State) (e : EntryId) : State :=
  if s.zones.guard then (s.leaveQueue e).goDone e (.plain .protection 0)
  else if s.loader.generation = 0xFFFFFFFF#32 then (s.leaveQueue e).goDone e (.plain .profileFull 0)
  else
    (s.mapEntry e fun x => { x with store := some ⟨s.loader.target, 0⟩ }).startBarrier e .active
      fun y => s.inCopy s.loader.target y

/-- R96: the order at the head of the gather queue, when no order is at its turn and the conflict rules allow it. -/
def State.headToStart (s : State) : Option (EntryId × Entry) :=
  match s.gather.turn, s.gather.queue with
  | none, e :: _ => if s.mayStartGather e then (s.entry? e).map fun x => (e, x) else none
  | _, _ => none

/-- R78, R96: the head order starts, by its kind. -/
def State.startHead (s : State) (e : EntryId) (x : Entry) : State :=
  match x.kind with
  | .write => s.startMerging e x .hostData
  | .fill => s.startMerging e x (.pattern x.record.selector)
  | .flush => s.startFlush e x
  | .setZone => s.startSetZone e x
  | .setGeometry => s.startSetGeometry e x
  | .storeProfile => s.startStoreProfile e
  | _ => s.leaveQueue e

/-! ### One action of the engine -/

/-- What the Gather Engine can do next in this event, if anything: start the head order, take a span, ask the Pool for a
buffer, or let the standing request go on. -/
def State.gatherStep? (s : State) : Option State :=
  match s.gather.turn with
  | none => s.headToStart.map fun p => s.startHead p.1 p.2
  | some _ =>
    match s.atTurn with
    | none => none
    | some (t, x) =>
      match t.span, t.bytes with
      | none, _ => if t.work = .barrier then none else some (s.takeGatherSpan t x)
      | some _, none => none
      | some sp, some bytes =>
        match s.pool.request with
        | none => some (s.askPool t x sp bytes)
        | some r => s.workRequest t x sp bytes r

end Sys2Proof.Machine
end

