-- ==== Sys2Proof/Machine/Reader.lean ====
section
/-! DEFINITION. The Read Engine (chapter 6): the choice of a read (R82, R116), its start (R117), the sources of a span (R119, R120),
parking (R123), assembly and overlay (R122), delivery (R125, R126), and the loss of a device (R127). -/

namespace Sys2Proof.Machine

/-! ### Conflict rules -/

/-- R82: the READ `e` may start: no earlier overlapping write is WAITING or ACTIVE, and no earlier SET_GEOMETRY of its
device is WAITING, ACTIVE or HELD. -/
def State.mayStartRead (s : State) (e : EntryId) : Bool :=
  match s.entry? e with
  | none => false
  | some x =>
    (List.finRange 32).all fun e' =>
      match s.entry? e' with
      | none => true
      | some y =>
        !(s.earlier e' e
          && ((y.writes && y.overlaps x && (y.state = .waiting || y.state = .active))
            || (y.kind = .setGeometry && y.record.position = x.record.position
              && (y.state = .waiting || y.state = .active || y.state = .held))))

/-! ### Sources -/

/-- R119: the byte at place `off` of a page from the newest non-FREE buffer that holds it valid, if any does. -/
def State.newestByte (s : State) (d : DevicePos) (page off : Nat) : Option Byte :=
  let holders := s.buffersWhere fun y => y.device = d && y.page = page && (y.image.getD off none).isSome
  match oldestBy (fun b => 4294967296 - s.bufferAge b) holders with
  | none => none
  | some b => (s.buffer? b).bind fun y => y.image.getD off none

/-- R119: the buffer source of each byte of a span. -/
def State.spanSources (s : State) (d : DevicePos) (sp : Span) : List (Option Byte) :=
  let page := sp.address / s.pageSize d
  let lo := sp.address % s.pageSize d
  (List.range sp.length).map fun i => s.newestByte d page (lo + i)

/-- R120: the marks of a span just taken. -/
def stageSources (sources : List (Option Byte)) : List Staged :=
  sources.map fun o => match o with | some b => .fromBuffer b | none => .needed

/-- R121, R122: a byte the device must still give: valid in no buffer and not yet read from the device. -/
def stillNeeded (source : Option Byte) (mark : Staged) : Bool :=
  source.isNone && (match mark with | .fromDevice _ => false | _ => true)

/-- R121: the smallest run, as offset and length in the span, that covers every byte still needed; `none` if there is
none. -/
def neededRun (flags : List Bool) : Option (Nat × Nat) :=
  let lo := flags.findIdx id
  let hi := flags.length - flags.reverse.findIdx id
  if flags.any id then some (lo, hi - lo) else none

/-- R122: one byte of the span at the end of a stream read frame: the newest buffer's byte, else the device's inside the
run, else what the device gave before, else still needed. -/
def overlayByte (source returned : Option Byte) (mark : Staged) : Staged :=
  match source, returned with
  | some b, _ => .fromBuffer b
  | none, some b => .fromDevice b
  | none, none => match mark with | .fromDevice b => .fromDevice b | _ => .needed

/-! ### Assembly and parking -/

/-- The active read with its entry. -/
def State.readInHand (s : State) : Option (ActiveRead × Entry) :=
  match s.reader.active with
  | some a => (s.entry? a.entry).map fun x => (a, x)
  | none => none

/-- The active read is replaced. -/
def State.setActive (s : State) (a : Option ActiveRead) : State := { s with reader := { s.reader with active := a } }

/-- R125: the span in hand is assembled and its delivery requested; with its last span the read enters DELIVERING. -/
def State.assemble (s : State) (a : ActiveRead) (x : Entry) (staging : List Staged) : State :=
  let u := s.setActive (some { a with staging := staging, assembled := true })
  (if x.total ≤ x.progress + a.span.length
   then u.mapEntry a.entry fun x => { x with state := .delivering } else u).requestMaster (.readData a.entry) []

/-- R123: the read parks on its device: its span and staging are dropped, a queued item is withdrawn, and the engine has no
active read. -/
def State.parkRead (s : State) (e : EntryId) (d : DevicePos) : State :=
  let u := (s.withdrawWork d (.hostRead e)).mapEntry e fun x => { x with state := .parked }
  { u with reader := { u.reader with
      active := none
      deferred := u.reader.deferred.set d (u.reader.deferred[d] ++ [e]) } }

/-- R120: the read needs device bytes: a class-2 item for an IDLE device, else it parks. -/
def State.askDevice (s : State) (e : EntryId) (d : DevicePos) : State :=
  if (s.device d).state = .idle then s.queueItem d (.hostRead e) else s.parkRead e d

/-- R118, R120: the active read `e` takes its next span. -/
def State.takeReadSpan (s : State) (e : EntryId) : State :=
  match s.entry? e with
  | none => s
  | some x =>
    let d := x.position
    let sp := spanFrom (s.pageSize d) (x.base + x.progress) (x.total - x.progress)
    let sources := s.spanSources d sp
    let a : ActiveRead := ⟨e, sp, stageSources sources, false⟩
    if sources.all (·.isSome) then s.assemble a x a.staging
    else (s.setActive (some a)).askDevice e d

/-- R122: the end of a stream read frame for the active read; `run` is the offset and the bytes returned. -/
def State.overlayRead (s : State) (a : ActiveRead) (x : Entry) (lo : Nat) (bytes : List Byte) : State :=
  let sources := s.spanSources x.position a.span
  let returned := (List.range a.span.length).map fun i =>
    if lo ≤ i ∧ i < lo + bytes.length then bytes[i - lo]? else none
  let staging := List.zipWith (fun p m => overlayByte p.1 p.2 m) (List.zip sources returned) a.staging
  if staging.any (· = .needed) then (s.setActive (some { a with staging := staging })).askDevice a.entry x.position
  else s.assemble a x staging

/-! ### Choosing -/

/-- R117: the start checks of a READ, in order. -/
def State.readCheck (s : State) (x : Entry) : Option Status :=
  let d := x.position
  if (s.device d).state = .absent then some .noDevice
  else if (s.device d).state = .offline then some .deviceOffline
  else if s.capacity d < x.record.address.toNat + x.record.length then some .badRange
  else none

/-- R117: a READ of the waiting set starts, makes its checks and takes its first span. -/
def State.startRead (s : State) (e : EntryId) : State :=
  let u := { s.mapEntry e fun x => { x with state := .active } with
    reader := { s.reader with waiting := s.reader.waiting.filter (· ≠ e) }
    startedRead := s.startedRead ++ [e] }
  match s.entry? e with
  | none => u
  | some x =>
    match s.readCheck x with
    | some st => u.goDone e (.plain st 0)
    | none => u.takeReadSpan e

/-- R116: a ready PARKED read is chosen again and assembles afresh the span it parked on. -/
def State.resumeRead (s : State) (e : EntryId) : State :=
  { s.mapEntry e fun x => { x with state := .active } with
    reader := { s.reader with ready := s.reader.ready.filter (· ≠ e) } }.takeReadSpan e

/-- R116, step 1: the ready read to choose. -/
def State.readToResume (s : State) : Option EntryId :=
  match s.reader.active with
  | some _ => none
  | none => oldestBy s.orderAge s.reader.ready

/-- R116, step 2: the waiting read to start, when no ready read stands before it. -/
def State.readToStart (s : State) : Option EntryId :=
  match s.reader.active, s.reader.ready with
  | none, [] => oldestBy s.orderAge (s.reader.waiting.filter s.mayStartRead)
  | _, _ => none

/-- What the Read Engine can do next in this event: choose a read while it has none. -/
def State.readStep? (s : State) : Option State :=
  match s.readToResume with
  | some e => some (s.resumeRead e)
  | none => s.readToStart.map s.startRead

/-! ### Delivery -/

/-- R79, R118, R126: the delivery of the span in hand has ended without a host fault: the progress grows by the span, and the
next span is taken, or the READ ends OK after its last. -/
def State.delivered (s : State) (a : ActiveRead) (x : Entry) : State :=
  let u := s.mapEntry a.entry fun x => { x with progress := x.progress + a.span.length }
  if x.total ≤ x.progress + a.span.length then (u.setActive none).goDone a.entry (.plain .ok x.total)
  else u.takeReadSpan a.entry

/-- R126: a delivery burst has ended in a host fault. -/
def State.deliveryFailed (s : State) (a : ActiveRead) (x : Entry) : State :=
  (s.setActive none).goDone a.entry (.plain .hostFault x.progress)

/-! ### A device is lost -/

/-- R127: one read of the lost device ends DEVICE_OFFLINE with its progress as count. -/
def State.readOffline (s : State) (e : EntryId) : State :=
  match s.entry? e with
  | none => s
  | some x => (s.giveUp (.readData e)).goDone e (.plain .deviceOffline x.progress)

/-- R127: the active read, if it is a read of the device and not in DELIVERING. -/
def State.activeOf (s : State) (d : DevicePos) : Option EntryId :=
  match s.readInHand with
  | some (a, x) => if x.position = d ∧ x.state ≠ .delivering then some a.entry else none
  | none => none

/-- R127: the PARKED reads of the device, on its list or in the ready set, by ascending sequence. -/
def State.parkedOf (s : State) (d : DevicePos) : List EntryId :=
  oldestFirst s.orderAge (s.reader.deferred[d] ++ s.reader.ready.filter fun e =>
    match s.entry? e with | some x => x.position = d | none => false)

/-- R127: every read that still needs the lost device ends, the active read first. -/
def State.readsOffline (s : State) (d : DevicePos) : State :=
  let parked := s.parkedOf d
  let u := match s.activeOf d with
    | some e => (s.setActive none).readOffline e
    | none => s
  { u with reader := { u.reader with
      deferred := u.reader.deferred.set d []
      ready := u.reader.ready.filter fun e => e ∉ parked } } |> fun v => parked.foldl State.readOffline v

end Sys2Proof.Machine
end

