-- ==== Sys2Proof/Machine/Channels.lean ====
section
/-! DEFINITION. The Channel Engines (chapters 2 and 3): taking a buffer (R48 to R51), attempts and their results (R54 to R63), the
arbiter and its grants (R41 to R43, R121), the loss of a device (R38, R64, R65). -/

namespace Sys2Proof.Machine

/-! ### Counters -/

/-- R44: one attempt more has failed; the counter stops at FFFFh. -/
def DeviceRecord.countFailed (r : DeviceRecord) : DeviceRecord :=
  { r with failedAttempts := if r.failedAttempts = 0xFFFF#16 then r.failedAttempts else r.failedAttempts + 1 }

/-- R44: one page more is programmed; the counter wraps. -/
def DeviceRecord.countProgrammed (r : DeviceRecord) : DeviceRecord :=
  { r with pagesProgrammed := r.pagesProgrammed + 1 }

/-! ### Spans of buffers -/

/-- R51: the device address and length of a buffer's span. -/
def State.bufferSpan (s : State) (y : Buffer) : Span :=
  ⟨y.page * s.pageSize y.device + (imageBounds y.image).1, (imageBounds y.image).2 - (imageBounds y.image).1⟩

/-- R51: the places of the span. -/
def Buffer.spanPlaces (y : Buffer) : List (Option Byte) :=
  imageSlice y.image (imageBounds y.image).1 ((imageBounds y.image).2 - (imageBounds y.image).1)

/-! ### Taking -/

/-- R48: a CLOSED buffer of the queue may be taken: its device is IDLE and the device's program slot is empty. -/
def State.mayTake (s : State) (b : BufferId) : Bool :=
  match s.buffer? b with
  | some y => y.state = .closed && (s.device y.device).state = .idle && (s.device y.device).slot.isNone
  | none => false

/-- R51: the buffer enters the program slot and FILLING or PROGRAMMING, and its work item is queued. -/
def State.enterSlot (s : State) (b : BufferId) (y : Buffer) : State :=
  let holes := y.spanPlaces.any (·.isNone)
  ((((s.mapChannel (channelOf y.device) fun c => { c with queue := c.queue.filter (· ≠ b) }).mapDevice y.device
    fun r => { r with slot := some b }).mapBuffer b
    fun y => { y with state := if holes then .filling else .programming }).queueItem y.device
    (if holes then .fillRead b else .programStart b))

/-- R50: the take of a buffer: a locked page ends it PROTECTED, with no frame; an open one enters the slot. -/
def State.takeBuffer (s : State) (b : BufferId) : State :=
  match s.buffer? b with
  | none => s
  | some y => if s.pageLocked y.device y.page then s.endBuffer b (some .protection) else s.enterSlot b y

/-- R48: one take from a channel's program queue, from the head. -/
def State.takeStep? (s : State) (c : ChannelId) : Option State :=
  ((s.channel c).queue.find? s.mayTake).map s.takeBuffer

/-! ### Attempts -/

/-- R54: the buffer is in PROGRAMMING and its class-4 program start is queued. -/
def State.queueStart (s : State) (b : BufferId) (d : DevicePos) : State :=
  (s.mapBuffer b fun y => { y with state := .programming }).queueItem d (.programStart b)

/-- R60: an attempt fails; a new program start is queued, or the third failure ends the buffer. -/
def State.failAttempt (s : State) (b : BufferId) (cause : Cause) : State :=
  match s.buffer? b with
  | none => s
  | some y =>
    let u := (s.mapBuffer b fun y => { y with cause := some cause }).mapDevice y.device DeviceRecord.countFailed
    if y.attempts < 3 then u.queueStart b y.device else u.endBuffer b (some cause)

/-- R62: a buffer ends in success. -/
def State.succeed (s : State) (b : BufferId) : State :=
  match s.buffer? b with
  | none => s
  | some y => (s.mapDevice y.device DeviceRecord.countProgrammed).endBuffer b none

/-- R56: a good cycle: verify, or success. -/
def State.cycleGood (s : State) (b : BufferId) : State :=
  match s.buffer? b with
  | none => s
  | some y =>
    if y.verify then (s.mapBuffer b fun y => { y with state := .verifying }).queueItem y.device (.verifyRead b)
    else s.succeed b

/-- R54, R64: an attempt of the slot holder is in progress: from the grant of its program start to its result. -/
def State.attemptInProgress (s : State) (b : BufferId) : Bool :=
  match s.buffer? b with
  | none => false
  | some y =>
    y.state = .verifying
      || (y.state = .programming
        && !((s.channel (channelOf y.device)).waiting.any fun i => i.work = .programStart b))

/-! ### A device goes OFFLINE -/

/-- R38, step 3: the device's buffers in the order they end: the slot holder, the CLOSED ones in program queue order, the
GATHERING ones oldest first. -/
def State.lostBuffers (s : State) (d : DevicePos) : List BufferId :=
  (s.device d).slot.toList
    ++ ((s.channel (channelOf d)).queue.filter fun b =>
        match s.buffer? b with | some y => y.device = d | none => false)
    ++ s.gatheringWhere (fun y => y.device = d)

/-- R38, step 1: state, timers, count, and a standing allocation request for the device. -/
def State.markOffline (s : State) (d : DevicePos) : State :=
  let u := s.mapDevice d fun r => { r with
    state := .offline, wakeLimit := none, cycleTimer := none, pollTimer := false, noAnswer := 0, confirming := false }
  { u with pool := { u.pool with request := match u.pool.request with
      | some r => if r.device = d then none else some r
      | none => none } }

/-- R61, R64: the failed attempts counter takes an attempt of the slot holder that was in progress. -/
def State.countLostAttempt (s : State) (d : DevicePos) : State :=
  match (s.device d).slot with
  | some b => if s.attemptInProgress b then s.mapDevice d DeviceRecord.countFailed else s
  | none => s

/-- R38, step 3: the device's buffers end, the slot holder with `cause`, the others with OFFLINE; then the watches that
emptied are served (R109). -/
def State.endLostBuffers (s : State) (d : DevicePos) (cause : Cause) : State :=
  ((s.lostBuffers d).foldl (fun t b =>
    t.endBufferQuiet b (some (if (s.device d).slot = some b then cause else .offline))) s).reportFlushes.actBarrier

/-- R147: device 0 in its boot wake is lost: the default geometry is applied. -/
def State.bootLost (s : State) (d : DevicePos) : State :=
  if d = 0 ∧ s.loader.phase = some .wake0 then s.applyDefault else s

/-- R38: entry to OFFLINE, step by step. `cause` is TIMEOUT for a cycle timeout and OFFLINE otherwise. -/
def State.goOffline (s : State) (d : DevicePos) (cause : Cause) : State :=
  (((((((((s.countLostAttempt d).markOffline d).withdrawItems d).dropFrame d).endLostBuffers d cause).readsOffline
    d).gatherOffline d).setFault .deviceLost).bootLost d)

/-! ### The arbiter -/

/-- R41: the class of a work item. -/
def Work.class : Work → Nat
  | .ask _ => 1
  | .hostRead _ | .copyRead _ => 2
  | .fillRead _ | .verifyRead _ => 3
  | .programStart _ => 4

/-- R41: how far a select is counted from the one after the last granted. -/
def selectDistance (last : Select) (d : DevicePos) : Nat := ((selectOf d).val + 3 - last.val) % 4

/-- R42: the arbiter may act on an item: status asks always; the rest for an IDLE device with no confirming ask
outstanding; a host read also for a CYCLING device, to return it. -/
def State.grantable (s : State) (i : WorkItem) : Bool :=
  match i.work with
  | .ask _ => true
  | .hostRead _ =>
    ((s.device i.device).state = .idle && !(s.device i.device).confirming) || (s.device i.device).state = .cycling
  | _ => (s.device i.device).state = .idle && !(s.device i.device).confirming

/-- R41: an item comes before another: lower class, then older event, then nearer select. -/
def itemBefore (last : Select) (i j : WorkItem) : Bool :=
  i.work.class < j.work.class
    || (i.work.class = j.work.class
      && (i.since < j.since || (i.since = j.since && selectDistance last i.device ≤ selectDistance last j.device)))

/-- R41: the item the arbiter takes. -/
def firstItem (last : Select) : List WorkItem → Option WorkItem
  | [] => none
  | i :: rest =>
    match firstItem last rest with
    | none => some i
    | some j => if itemBefore last i j then some i else some j

/-- R41: the item is removed from the waiting work. -/
def State.removeItem (s : State) (c : ChannelId) (i : WorkItem) : State :=
  s.mapChannel c fun ch => { ch with waiting := ch.waiting.erase i }

/-- R41: the grant of an item: it is removed and its select recorded as the last granted. -/
def State.grantItem (s : State) (c : ChannelId) (i : WorkItem) : State :=
  (s.removeItem c i).mapChannel c fun ch => { ch with lastGranted := selectOf i.device }

/-- R24: a frame begins on the channel. -/
def State.beginFrame (s : State) (c : ChannelId) (d : DevicePos) (content : FrameContent) : State :=
  s.mapChannel c fun ch => { ch with frame := some ⟨d, content, s.addressWidth d, false⟩ }

/-- R43: a REVIVE ask at its grant: the device is looked at again. -/
def State.grantRevive (s : State) (c : ChannelId) (d : DevicePos) (e : EntryId) : State :=
  match (s.device d).state with
  | .absent => s.goDone e (.plain .noDevice 0)
  | .offline => s.beginFrame c d (.ask (.revive e))
  | _ => s.goDone e (.plain .ok 0)

/-- R121: a host read at its grant: its run is fixed; with no byte needed the span is assembled without a frame. -/
def State.grantHostRead (s : State) (c : ChannelId) (d : DevicePos) : State :=
  match s.readInHand with
  | none => s
  | some (a, x) =>
    let sources := s.spanSources d a.span
    match neededRun (List.zipWith stillNeeded sources a.staging) with
    | none => s.assemble a x (List.zipWith (fun o m => overlayByte o none m) sources a.staging)
    | some (lo, n) => s.beginFrame c d (.stream (.hostRead a.entry) (a.span.address + lo) n)

/-- R52, R58: a fill or verify read of the buffer's span. -/
def State.grantBufferRead (s : State) (c : ChannelId) (d : DevicePos) (b : BufferId) (p : StreamPurpose) : State :=
  match s.buffer? b with
  | none => s
  | some y => s.beginFrame c d (.stream p (s.bufferSpan y).address (s.bufferSpan y).length)

/-- R54: a program start: attempts grow by 1, and GATE OPEN then PAGE LOAD of the span are sent. -/
def State.grantStart (s : State) (c : ChannelId) (d : DevicePos) (b : BufferId) : State :=
  match s.buffer? b with
  | none => s
  | some y =>
    (s.mapBuffer b fun y => { y with attempts := y.attempts + 1 }).beginFrame c d
      (.programStart b (s.bufferSpan y).address (y.spanPlaces.map (·.getD 0xFF)))

/-- R41 to R43: the arbiter acts on the item it takes. -/
def State.actOnItem (s : State) (c : ChannelId) (i : WorkItem) : State :=
  match i.work with
  | .ask (.revive e) => (s.grantItem c i).grantRevive c i.device e
  | .ask p => (s.grantItem c i).beginFrame c i.device (.ask p)
  | .hostRead e =>
    if (s.device i.device).state = .cycling then (s.removeItem c i).parkRead e i.device   -- R42: returned, not sent
    else (s.grantItem c i).grantHostRead c i.device
  | .copyRead k => (s.grantItem c i).beginFrame c i.device (.stream (.copyRead k) k.address 256)
  | .fillRead b => (s.grantItem c i).grantBufferRead c i.device b (.fillRead b)
  | .verifyRead b => (s.grantItem c i).grantBufferRead c i.device b (.verifyRead b)
  | .programStart b => (s.grantItem c i).grantStart c i.device b

/-- R41: a grant on a free channel, if an item waits that may be granted. -/
def State.grantStep? (s : State) (c : ChannelId) : Option State :=
  match (s.channel c).frame with
  | some _ => none
  | none => (firstItem (s.channel c).lastGranted ((s.channel c).waiting.filter s.grantable)).map (s.actOnItem c)

end Sys2Proof.Machine
end

