-- ==== Sys2Proof/Machine/Settle.lean ====
section
/-! DEFINITION. The inside of one event: the follow-on actions of the blocks until nothing more follows (`State.settle`), the master
arbiter's grant (R159, R170, R173), the interrupt line, and the frame in which every command runs (`State.react`).
notes/assumptions/4.md gives the order in which the rules have these actions follow. -/

namespace Sys2Proof.Machine

/-! ### The end of DRAINING -/

/-- R167: no fetch transfer is on the bus. -/
def State.fetchOnBus (s : State) : Bool :=
  match s.host.engine with
  | some t => match t.job with | .orderFetch _ _ => true | _ => false
  | none => false

/-- R167: the part leaves DRAINING for STOPPED when the table is empty, no fetch is on the bus and all buffers are FREE. -/
def State.drainEnd? (s : State) : Option State :=
  if s.host.part = .draining ∧ s.occupancy = 0 ∧ s.fetchOnBus = false ∧ s.freeBuffers = 16
  then some { s with host := { s.host with part := .stopped } } else none

/-! ### Follow-on actions -/

/-- One follow-on action, if any block has one: the Gather Engine first (R96, R100), the Read Engine (R91: after the Gather
Engine), then the looks at the program queues (R49: after the other work of the event), the channel arbiters (R41), and
the ends of the load and of a drain. -/
def State.advance? (s : State) : Option State :=
  s.gatherStep? <|> s.readStep? <|> s.takeStep? 0 <|> s.takeStep? 1 <|> s.grantStep? 0 <|> s.grantStep? 1
    <|> s.loadEnd? <|> s.drainEnd?

/-- Up to `n` follow-on actions. -/
def State.settleWithin : Nat → State → State
  | 0, s => s
  | n + 1, s =>
    match s.advance? with
    | none => s
    | some t => State.settleWithin n t

/-- Every follow-on action of the event. -/
def State.settle (s : State) : State := State.settleWithin Config.settleBound s

/-! ### The master arbiter -/

/-- R170: the ring holds records waiting to be fetched. -/
def RingFetch.normalWaits (f : RingFetch) : Bool := f.config.isSome && f.normalHead ≠ f.normalTail

/-- R170: as `normalWaits`, for the urgent ring. -/
def RingFetch.urgentWaits (f : RingFetch) : Bool := f.config.isSome && f.urgentHead ≠ f.urgentTail

/-- R170: Ring Fetch keeps an order fetch request waiting. -/
def State.fetchRequested (s : State) : Bool :=
  s.host.part = .running && (s.fetch.normalWaits || s.fetch.urgentWaits) && s.lowestFreeEntry.isSome && !s.fetchOnBus

/-- R173: no completion write is on the bus. -/
def State.postOnBus (s : State) : Bool :=
  match s.host.engine with
  | some t => match t.job with | .completionWrite _ => true | _ => false
  | none => false

/-- R173: the part state allows completion writes. -/
def PartState.posts : PartState → Bool
  | .stopped | .settingUp | .running | .draining => true
  | .loading | .halted => false

/-- R173: the Completion Poster keeps a completion write request waiting. -/
def State.postRequested (s : State) : Bool :=
  s.host.part.posts && !s.orders.done.isEmpty && !s.postOnBus
    && (match s.fetch.config with
        | none => false
        | some c => ringNext c.completion.size s.poster.tail ≠ s.poster.head)

/-- A transfer at its grant: nothing moved yet. -/
def Transfer.start (job : Job) (address words : Nat) (out : List (Word × BitVec 4)) : Transfer :=
  { job, givenUp := false, address, words, out, moved := 0, taken := 0, retries := 0 }

/-- R157: a granted transfer holds the engine. -/
def State.setEngine (s : State) (t : Option Transfer) : State := { s with host := { s.host with engine := t } }

/-- R173, R184: the completion write of the entry at the head of the done queue is built at its grant. -/
def State.grantPost (s : State) (c : RingConfig) (e : EntryId) : State :=
  match s.entry? e with
  | none => s
  | some x =>
    s.setEngine (some (.start (.completionWrite e) (c.completion.base + 16 * s.poster.tail) 4
      (wordsAt 0 (completionBytes (s.poster.serial + 1) x (x.result.getD (.plain .ok 0))))))

/-- R157, R166: the setup block read is granted. -/
def State.grantSetup (s : State) : State :=
  { s.setEngine (some (.start .setupRead s.host.setupAddr.toNat 8 [])) with } |> fun t =>
    { t with host := { t.host with setupRequest := false } }

/-- R159: the class-2 request to grant: the oldest, and of one event the earliest accepted order. -/
def State.oldestRequest (s : State) : Option Request :=
  match (s.host.requests.map (·.since)).min? with
  | none => none
  | some first =>
    oldestBy (fun r => match r.job with
      | .writeData e | .readData e | .reportStore e | .completionWrite e => s.orderAge e
      | _ => 0) (s.host.requests.filter (·.since = first))

/-- R99, R125, R182: the transfer a class-2 request makes, built at its grant. -/
def State.requestTransfer (s : State) (r : Request) : Transfer :=
  match r.job with
  | .writeData e =>
    match s.atTurn with
    | some (t, x) =>
      let sp := t.span.getD ⟨0, 0⟩
      let host := x.record.buffer.toNat + (sp.address - x.record.address.toNat)
      .start (.writeData e) (host - host % 4) (wordCount host sp.length) []
    | none => .start (.writeData e) 0 0 []
  | .readData e =>
    match s.readInHand with
    | some (a, x) =>
      let host := x.record.buffer.toNat + (a.span.address - x.record.address.toNat)
      .start (.readData e) (host - host % 4) (wordCount host a.span.length)
        (wordsAt host (a.staging.map fun m => match m with
          | .fromBuffer b => b | .fromDevice b => b | .needed => 0))
    | none => .start (.readData e) 0 0 []
  | job =>
    let buffer := match job with
      | .reportStore e => ((s.entry? e).map fun x => x.record.buffer.toNat).getD 0
      | _ => 0
    .start job buffer 32 (wordsAt 0 r.record)

/-- R159: a class-2 request is granted. -/
def State.grantRequest (s : State) (r : Request) : State :=
  { s with host := { s.host with
      requests := s.host.requests.erase r
      engine := some (s.requestTransfer r) } }

/-- R170: the ring of the next fetch and the urgent run count after it. -/
def RingFetch.choose (f : RingFetch) : RingId × Nat :=
  match f.urgentWaits, f.normalWaits with
  | true, false => (.urgent, 0)
  | true, true => if f.urgentRun < 4 then (.urgent, f.urgentRun + 1) else (.normal, 0)
  | false, _ => (.normal, 0)

/-- R170: the order fetch is granted and its ring chosen. -/
def State.grantFetch (s : State) (c : RingConfig) : State :=
  let ring := s.fetch.choose.1
  let slot := if ring = .urgent then s.fetch.urgentHead else s.fetch.normalHead
  let base := if ring = .urgent then c.urgent.base else c.normal.base
  { s with fetch := { s.fetch with urgentRun := s.fetch.choose.2 } }.setEngine
    (some (.start (.orderFetch ring slot) (base + 32 * slot) 8 []))

/-- R159: the master arbiter may grant: engine idle, part not HALTED, no local reset pending. -/
def State.masterFree (s : State) : Bool :=
  s.host.engine.isNone && s.host.part ≠ .halted && !s.host.resetPending

/-- R159: the master arbiter's grant: class 1, then the oldest of class 2, then the order fetch. -/
def State.grantMaster (s : State) : State :=
  if s.masterFree = false then s
  else
    match s.fetch.config, s.orders.done, s.postRequested with
    | some c, e :: _, true => s.grantPost c e
    | _, _, _ =>
      if s.host.setupRequest then s.grantSetup
      else
        match s.oldestRequest with
        | some r => s.grantRequest r
        | none =>
          match s.fetch.config, s.fetchRequested with
          | some c, true => s.grantFetch c
          | _, _ => s

/-! ### The frame of a command -/

/-- The end of an event in which only the host side changed: a grant and the interrupt line. -/
def State.hostSide (s : State) : State := s.grantMaster.updateIntreq

/-- The end of an event: what follows in it, the joining of R91, a grant, the interrupt line. -/
def State.conclude (s : State) : State := s.settle.joinStarted.hostSide

/-- A command as one event. While HRST is asserted the part is held in its reset state and takes no event (R164). An event
whose cause does not stand in this state does not occur: nothing changes (notes/assumptions/3.md). -/
def State.react (s : State) (effect : State → Option State) : Host.Outcome State Fault Refusal :=
  if s.pins.hrst then .next s
  else
    match effect s.newEvent with
    | none => .next s
    | some t => .next t.conclude

/-- A register write or line change that only the host side answers to. -/
def State.access (s : State) (effect : State → State) : Host.Outcome State Fault Refusal :=
  if s.pins.hrst then .next s else .next (effect s)

end Sys2Proof.Machine
end

