-- ==== Sys2Proof/Machine/Resets.lean ====
section
/-! DEFINITION. The family of lines and resets: LINK_RESET, HRST_RELEASE, GRD_CHANGE, LOCAL_RESET, LOCAL_RESET_AT_BURST_END
(R134, R147, R163, R164, and each block's reset rule). -/

namespace Sys2Proof.Machine

/-! ### The two resets -/

/-- R164: every block in its link reset state and HRST asserted. The levels of GRD and BW are the board's, STATE shows the
level of GRD (R134); the commands that wait are outside the part. -/
def State.linkReset (s : State) : State :=
  { State.reset with
    pins := { hrst := true, grd := s.pins.grd, bw := s.pins.bw, intreq := false }
    zones := { State.reset.zones with guard := s.pins.grd }
    event := s.event
    pending := s.pending }

/-- R163: every block in its local reset state, CONTROL's enables and SETUP_ADDR kept, then the event that begins LOADING
(R147). -/
def State.localReset (s : State) : State :=
  { State.reset with
    pins := { hrst := false, grd := s.pins.grd, bw := s.pins.bw, intreq := false }
    host := { HostPort.reset with
      intEnable := s.host.intEnable, faultIntEnable := s.host.faultIntEnable, setupAddr := s.host.setupAddr }
    event := s.event
    pending := s.pending }.beginLoading

/-- The level of BW as it stands. -/
def State.setBW (s : State) (bw : Bool) : State := { s with pins := { s.pins with bw } }

/-- R163: a CONTROL write takes the two enables in every case. -/
def State.takeEnables (s : State) (intEnable faultIntEnable : Bool) : State :=
  { s with host := { s.host with intEnable, faultIntEnable } }

/-! ### Meanings -/

/-- LINK_RESET (R164): the assertion is one event; whatever was on the bus or on a channel is cut. -/
def execLinkReset (s : State) : Host.Outcome State Fault Refusal := .next s.linkReset

/-- HRST_RELEASE (R147, R164): LOADING begins. With HRST not asserted there is no release. -/
def execHrstRelease (bw : Bool) (s : State) : Host.Outcome State Fault Refusal :=
  if s.pins.hrst then
    .next ({ s.newEvent with pins := { s.pins with hrst := false, bw } }.beginLoading).conclude
  else .next s

/-- GRD_CHANGE (R134): the guard level is taken from the line; no block acts on the change. While HRST is asserted the line
moves and the Zone Table is held in reset. -/
def execGrdChange (asserted : Bool) (s : State) : Host.Outcome State Fault Refusal :=
  .next { s with
    pins := { s.pins with grd := asserted }
    zones := { s.zones with guard := if s.pins.hrst then s.zones.guard else asserted } }

/-- LOCAL_RESET (R163): at once if the engine is idle, else pending until the burst in progress ends; a second one while one
is pending takes its enables and nothing else (DESIGN CHOICE: R163 says of it both that it changes nothing and, of any CONTROL
write, that it takes its enables, notes/assumptions/22.md). The level of BW that counts is the one at the reset itself (R147), so `bw` is
taken only where the reset happens in this event. -/
def execLocalReset (intEnable faultIntEnable bw : Bool) (s : State) : Host.Outcome State Fault Refusal :=
  s.react fun s =>
    let u := s.takeEnables intEnable faultIntEnable
    if s.host.resetPending then some u
    else if s.host.engine.isNone then some (u.setBW bw).localReset
    else some { u with host := { u.host with resetPending := true } }

/-- LOCAL_RESET_AT_BURST_END (R163): the burst in progress has ended while a local reset is pending; its result is
discarded. -/
def execLocalResetAtBurstEnd (bw : Bool) (s : State) : Host.Outcome State Fault Refusal :=
  s.react fun s =>
    if s.host.resetPending = true ∧ s.host.engine.isSome = true then some (s.setBW bw).localReset else none

end Sys2Proof.Machine
end

