-- ==== Sys2Proof/Machine/Registers.lean ====
section
/-! DEFINITION. The family of register writes (R161 to R163, R167, R169, R172, R176). -/

namespace Sys2Proof.Machine

/-! ### RUN -/

/-- R167: RUN goes from 0 to 1, with its effect by part state; as it already stands it changes nothing. -/
def State.setRun (s : State) : State :=
  if s.host.run then s
  else
    let u := { s with host := { s.host with run := true } }
    match s.host.part with
    | .stopped => if s.configured then { u with host := { u.host with part := .running } } else u.enterSettingUp
    | .draining => { u with host := { u.host with part := .running } }
    | .loading | .settingUp | .running | .halted => u

/-- R16, R167: entry to DRAINING closes every GATHERING buffer, oldest first. -/
def State.enterDraining (s : State) : State :=
  { s with host := { s.host with part := .draining } }.closeAll (s.gatheringWhere fun _ => true)

/-- R167: RUN goes from 1 to 0, with its effect by part state. -/
def State.clearRun (s : State) : State :=
  if s.host.run then
    let u := { s with host := { s.host with run := false } }
    match s.host.part with
    | .running => u.enterDraining
    | .loading | .stopped | .settingUp | .draining | .halted => u
  else s

/-- RUN_SET (R163, R167): a CONTROL write with RUN 1. While a local reset is pending it takes its enables only. -/
def execRunSet (intEnable faultIntEnable : Bool) (s : State) : Host.Outcome State Fault Refusal :=
  s.access fun s =>
    let u := s.takeEnables intEnable faultIntEnable
    (if s.host.resetPending then u else u.setRun).hostSide

/-- RUN_CLEAR (R163, R167): a CONTROL write with RUN 0. -/
def execRunClear (intEnable faultIntEnable : Bool) (s : State) : Host.Outcome State Fault Refusal :=
  s.react fun s =>
    let u := s.takeEnables intEnable faultIntEnable
    some (if s.host.resetPending then u else u.clearRun)

/-- INT_ENABLE (R163): INTREQ follows in that event. -/
def execIntEnable (value : Bool) (s : State) : Host.Outcome State Fault Refusal :=
  s.access fun s => (s.takeEnables value s.host.faultIntEnable).updateIntreq

/-- FAULT_INT_ENABLE (R163): INTREQ follows in that event. -/
def execFaultIntEnable (value : Bool) (s : State) : Host.Outcome State Fault Refusal :=
  s.access fun s => (s.takeEnables s.host.intEnable value).updateIntreq

/-! ### SETUP_ADDR and FAULT -/

/-- SETUP_ADDR_WRITE (R162): taken only while STOPPED and unconfigured (and no local reset is pending, R163); the six low
address bits are dropped. -/
def execSetupAddrWrite (value : Word) (s : State) : Host.Outcome State Fault Refusal :=
  s.access fun s =>
    if s.host.part = .stopped ∧ s.configured = false ∧ s.host.resetPending = false
    then { s with host := { s.host with setupAddr := value &&& 0xFFFFFFC0#32 } } else s

/-- FAULT_WRITE (R162, R176): each flag written as 1 is cleared, each written as 0 is left, and INTREQ follows. -/
def execFaultWrite (value : Word) (s : State) : Host.Outcome State Fault Refusal :=
  s.access fun s =>
    { s with host := { s.host with fault := s.host.fault &&& ~~~(value.truncate 9) } }.updateIntreq

/-- REGISTER_WRITE_IGNORED (R161): a write to IDENT or STATE, or without all four byte enables, has no effect. -/
def execRegisterWriteIgnored (_register : Register) (_value : Word) (_byteEnables : BitVec 4) (s : State) :
    Host.Outcome State Fault Refusal := .next s

/-! ### Ring indices -/

/-- R169: the size of an order ring, if the rings are configured. -/
def RingFetch.size? (f : RingFetch) (r : RingId) : Option Nat :=
  f.config.map fun c => match r with | .normal => c.normal.size | .urgent => c.urgent.size

/-- R169: a taken tail write. -/
def State.setTail (s : State) (r : RingId) (v : Nat) : State :=
  match r with
  | .normal => { s with fetch := { s.fetch with normalTail := v } }
  | .urgent => { s with fetch := { s.fetch with urgentTail := v } }

/-- R163, R169: a write of NTAIL or UTAIL: taken, ignored with BAD_INDEX, or, while a local reset is pending, ignored. -/
def State.writeTail (s : State) (r : RingId) (value : Word) : State :=
  if s.host.resetPending then s
  else
    match s.fetch.size? r with
    | none => s.setFault .badIndex
    | some size => if value.toNat < size then s.setTail r value.toNat else s.setFault .badIndex

/-- NTAIL_WRITE (R169): a taken write may allow a fetch in this event (R170). -/
def execNtailWrite (value : Word) (s : State) : Host.Outcome State Fault Refusal :=
  s.access fun s => (s.writeTail .normal value).hostSide

/-- UTAIL_WRITE (R169). -/
def execUtailWrite (value : Word) (s : State) : Host.Outcome State Fault Refusal :=
  s.access fun s => (s.writeTail .urgent value).hostSide

/-- R172: a write of CHEAD: taken, ignored with BAD_INDEX, or, while a local reset is pending, ignored. -/
def State.writeHead (s : State) (value : Word) : State :=
  if s.host.resetPending then s
  else
    match s.fetch.config with
    | none => s.setFault .badIndex
    | some c =>
      let size := c.completion.size
      if value.toNat < size ∧ ringCount size s.poster.head value.toNat ≤ ringCount size s.poster.head s.poster.tail
      then { s with poster := { s.poster with head := value.toNat } } else s.setFault .badIndex

/-- CHEAD_WRITE (R172): it may give the poster room (R173) and release INTREQ (R174). -/
def execCheadWrite (value : Word) (s : State) : Host.Outcome State Fault Refusal :=
  s.access fun s => (s.writeHead value).hostSide

end Sys2Proof.Machine
end

