-- ==== Sys2Proof/Machine/Bursts.lean ====
section
/-! DEFINITION. The family of master bursts and transfer ends (R157, R158, R160) but for the order fetches that end good: the setup block
read (R166), a fetch's host fault, completion writes (R173), write data (R99, R104), read data (R125, R126), reports (R182). -/

namespace Sys2Proof.Machine

/-! ### Bursts -/

/-- R157: the words of the burst in progress. -/
def Transfer.burst (t : Transfer) : Nat := burstWords (t.address + 4 * t.moved) (t.words - t.moved)

/-- R158: the burst in progress is the last of its transfer. -/
def Transfer.lastBurst (t : Transfer) : Bool := t.words ≤ t.moved + t.burst

/-- R158: the next burst begins; its retry count is 0. -/
def Transfer.nextBurst (t : Transfer) : Transfer := { t with moved := t.moved + t.burst, taken := 0, retries := 0 }

/-- R158: a RETRY after `taken` further words: the repeat belongs to the same burst. -/
def Transfer.retry (t : Transfer) (taken : Nat) : Transfer :=
  { t with taken := t.taken + taken, retries := if taken = 0 then t.retries + 1 else 0 }

/-- R147, R163: a burst ends while a local reset is pending: the reset happens and the burst's result is discarded. The level of
BW at the reset is not told by the command that ends the burst: it is a free value (DESIGN CHOICE, notes/assumptions/14.md). -/
def State.burstEnd (s : State) (k : State → State) : State :=
  if s.host.resetPending then (s.setBW (Config.bwLevel s.event)).localReset else k s

/-! ### Host faults -/

/-- R168, R177: the part enters HALTED and the HALT flag is set. -/
def State.halt (s : State) (f : FaultFlag) : State :=
  { s with host := { s.host with part := .halted } }.setFault f

/-- R160: a host fault at the end of a transfer is routed by the kind of transfer; one that its requester has given up is
neither reported nor routed. -/
def State.routeFault (s : State) (t : Transfer) : State :=
  let u := s.setEngine none
  if t.givenUp then u
  else
    match t.job with
    | .setupRead => u.halt .haltSetup
    | .orderFetch _ _ => u.halt .haltFetch
    | .completionWrite _ => u.halt .haltPost
    | .writeData _ => u.failWrite
    | .readData _ =>
      match u.readInHand with
      | some (a, x) => u.deliveryFailed a x
      | none => u
    | .reportStore e => u.goDone e (.plain .hostFault 0)

/-- The transfer on the bus, if it is of the kind asked for and `ready` holds of it. -/
def State.onBus (s : State) (kind : Job → Bool) (ready : Transfer → Bool) : Option Transfer :=
  match s.host.engine with
  | some t => if kind t.job && ready t then some t else none
  | none => none

/-- MASTER_BURST_COMPLETE (R158): the next burst of the transfer begins at once. -/
def execMasterBurstComplete (s : State) : Host.Outcome State Fault Refusal :=
  s.react fun s =>
    (s.onBus (fun _ => true) fun t => !t.lastBurst).map fun t =>
      s.burstEnd fun s => s.setEngine (some t.nextBurst)

/-- MASTER_BURST_RETRY (R158): the burst is repeated from the first word not taken; the 64th RETRY in a row with no word
taken is a host fault. -/
def execMasterBurstRetry (taken : Nat) (s : State) : Host.Outcome State Fault Refusal :=
  s.react fun s =>
    (s.onBus (fun _ => true) fun t => t.taken + taken < t.burst).map fun t =>
      s.burstEnd fun s =>
        if 64 ≤ (t.retry taken).retries then s.routeFault t else s.setEngine (some (t.retry taken))

/-! ### The setup block -/

/-- R166: a good block configures the rings; RUN decides the part state. -/
def State.configure (s : State) (b : SetupBlock) : State :=
  { s with
    fetch := { s.fetch with config := some b.config }
    pool := { s.pool with linger := b.linger.toNat }
    host := { s.host with part := if s.host.run then .running else .stopped } }

/-- R166: a bad block sets BAD_SETUP, clears RUN, and leaves the part STOPPED and unconfigured. -/
def State.refuseSetup (s : State) : State :=
  { s with host := { s.host with run := false, part := .stopped } }.setFault .badSetup

/-- The setup block read. -/
def Job.isSetup : Job → Bool
  | .setupRead => true
  | _ => false

/-- SETUP_BLOCK_READ_END (R166): good with a good or a bad block, or a host fault. -/
def execSetupBlockReadEnd (result : SetupEnd) (s : State) : Host.Outcome State Fault Refusal :=
  s.react fun s =>
    (s.onBus Job.isSetup (·.lastBurst)).map fun t =>
      s.burstEnd fun s =>
        match result with
        | .complete block =>
          if block.good then (s.setEngine none).configure block else (s.setEngine none).refuseSetup
        | .hostFault _ => s.routeFault t

/-! ### Order fetch faults -/

/-- An order fetch. -/
def Job.isFetch : Job → Bool
  | .orderFetch _ _ => true
  | _ => false

/-- ORDER_FETCH_HOST_FAULT (R160, R171): HALT_FETCH, HALTED, the head not advanced, no entry filled. -/
def execOrderFetchHostFault (_f : BusFault) (s : State) : Host.Outcome State Fault Refusal :=
  s.react fun s =>
    (s.onBus Job.isFetch fun _ => true).map fun t => s.burstEnd fun s => s.routeFault t

/-! ### Completion writes -/

/-- R173: a completion record has been written: serial and tail advance, the entry leaves the done queue and is free. -/
def State.posted (s : State) (e : EntryId) : State :=
  let size := match s.fetch.config with | some c => c.completion.size | none => 1
  { s with
    poster := { s.poster with serial := s.poster.serial + 1, tail := ringNext size s.poster.tail }
    orders := { s.orders with
      entries := s.orders.entries.set e none
      done := s.orders.done.filter (· ≠ e) } }

/-- A completion write. -/
def Job.isPost : Job → Bool
  | .completionWrite _ => true
  | _ => false

/-- R158: a write transfer may end so: good after its last burst, in a host fault at any. -/
def Transfer.mayEndWrite (t : Transfer) : WriteEnd → Bool
  | .complete => t.lastBurst
  | .hostFault _ => true

/-- COMPLETION_WRITE_END (R173): the entry is freed, or the part halts with HALT_POST. -/
def execCompletionWriteEnd (result : WriteEnd) (s : State) : Host.Outcome State Fault Refusal :=
  s.react fun s =>
    (s.onBus Job.isPost (·.mayEndWrite result)).map fun t =>
      s.burstEnd fun s =>
        match result, t.job with
        | .complete, .completionWrite e => (s.setEngine none).posted e
        | _, _ => s.routeFault t

/-! ### Write data -/

/-- R99: the bytes of the span in hand, from the words of the whole transfer. -/
def spanBytes (host n : Nat) (words : List Word) : List Byte := ((bytesOfWords words).drop (host % 4)).take n

/-- R99: the span's bytes are ready for merging. -/
def State.takeData (s : State) (words : List Word) : State :=
  match s.atTurn with
  | none => s
  | some (t, x) =>
    match t.span with
    | none => s
    | some sp =>
      let host := x.record.buffer.toNat + (sp.address - x.record.address.toNat)
      s.mapTurn fun t => { t with bytes := some (spanBytes host sp.length words) }

/-- A write-data read. -/
def Job.isWriteData : Job → Bool
  | .writeData _ => true
  | _ => false

/-- R158: a read transfer may end so: with every word of it after its last burst, in a host fault at any. -/
def Transfer.mayEndRead (t : Transfer) : DataEnd → Bool
  | .complete words => t.lastBurst && words.length = t.words
  | .hostFault _ => true

/-- WRITE_DATA_READ_END (R99, R104): the span goes on to its merge, or the WRITE ends HOST_FAULT; the data of a WRITE that
has given it up is discarded (R105). -/
def execWriteDataReadEnd (result : DataEnd) (s : State) : Host.Outcome State Fault Refusal :=
  s.react fun s =>
    (s.onBus Job.isWriteData (·.mayEndRead result)).map fun t =>
      s.burstEnd fun s =>
        match result with
        | .complete words => if t.givenUp then s.setEngine none else (s.setEngine none).takeData words
        | .hostFault _ => s.routeFault t

/-! ### Read data -/

/-- A read-data store. -/
def Job.isReadData : Job → Bool
  | .readData _ => true
  | _ => false

/-- READ_DATA_STORE_END (R125, R126): the next span is taken, or the READ ends. -/
def execReadDataStoreEnd (result : WriteEnd) (s : State) : Host.Outcome State Fault Refusal :=
  s.react fun s =>
    (s.onBus Job.isReadData (·.mayEndWrite result)).map fun t =>
      s.burstEnd fun s =>
        match result with
        | .complete =>
          let u := s.setEngine none
          if t.givenUp then u
          else
            match u.readInHand with
            | some (a, x) => u.delivered a x
            | none => u
        | .hostFault _ => s.routeFault t

/-! ### Reports -/

/-- A report store. -/
def Job.isReport : Job → Bool
  | .reportStore _ => true
  | _ => false

/-- REPORT_STORE_END (R182): OK with count 128, or HOST_FAULT. -/
def execReportStoreEnd (result : WriteEnd) (s : State) : Host.Outcome State Fault Refusal :=
  s.react fun s =>
    (s.onBus Job.isReport (·.mayEndWrite result)).map fun t =>
      s.burstEnd fun s =>
        match result, t.job with
        | .complete, .reportStore e => (s.setEngine none).goDone e (.plain .ok 128)
        | _, _ => s.routeFault t

end Sys2Proof.Machine
end

