-- ==== Sys2Proof/Machine/Acceptance.lean ====
section
/-! DEFINITION. The family of fetched orders (R71 to R76): the acceptance event and what each kind does in it: hand on to an engine
(R76), CANCEL (R86), REVIVE (R88), REPORT (R89, R181, R187). -/

namespace Sys2Proof.Machine

/-! ### Acceptance -/

/-- R171: the head of the ring fetched from advances by one. -/
def State.advanceHead (s : State) (r : RingId) : State :=
  match s.fetch.size? r with
  | none => s
  | some size =>
    match r with
    | .normal => { s with fetch := { s.fetch with normalHead := ringNext size s.fetch.normalHead } }
    | .urgent => { s with fetch := { s.fetch with urgentHead := ringNext size s.fetch.urgentHead } }

/-- R70, R72: the entry a record fills. -/
def Entry.ofRecord (ring : RingId) (slot : Nat) (k : Kind) (r : OrderRecord) (sequence : Option (BitVec 32)) : Entry :=
  { ring, slot, kind := k, record := r, sequence, state := .waiting, progress := 0, failedPages := 0
    firstFailure := none, watch := [], store := none, result := none }

/-- R71: an entry is filled. -/
def State.putEntry (s : State) (e : EntryId) (x : Entry) : State :=
  { s with orders := { s.orders with entries := s.orders.entries.set e (some x) } }

/-- R72 to R76: the record is accepted into the lowest free entry: refused BAD_ORDER with no sequence number, or numbered and
handed on. -/
def State.acceptRecord (s : State) (ring : RingId) (slot : Nat) (k : Kind) (r : OrderRecord)
    (handOn : EntryId → State → State) : State :=
  let u := (s.setEngine none).advanceHead ring
  match u.lowestFreeEntry with
  | none => u
  | some e =>
    if acceptable k r then
      let v := u.putEntry e (.ofRecord ring slot k r (some u.orders.sequence))
      handOn e { v with orders := { v.orders with sequence := v.orders.sequence + 1 } }
    else (u.putEntry e (.ofRecord ring slot k r none)).goDone e (.plain .badOrder 0)

/-- R171, R72: a fetch ends good with a record of this kind. -/
def State.accept (s : State) (k : Kind) (r : OrderRecord) (handOn : EntryId → State → State) :
    Host.Outcome State Fault Refusal :=
  s.react fun s =>
    (s.onBus Job.isFetch fun _ => true).map fun t =>
      s.burstEnd fun s =>
        match t.job with
        | .orderFetch ring slot => s.acceptRecord ring slot k r handOn
        | _ => s

/-! ### Handing on -/

/-- R76: a READ enters the Read Engine's waiting set. -/
def handToReader (e : EntryId) (s : State) : State :=
  { s with reader := { s.reader with waiting := s.reader.waiting ++ [e] } }

/-- R76: the order joins the tail of the gather queue. -/
def handToGather (e : EntryId) (s : State) : State :=
  { s with gather := { s.gather with queue := s.gather.queue ++ [e] } }

/-- R86: the WAITING orders of a ring and tag, by ascending sequence. -/
def State.cancelTargets (s : State) (ring : RingId) (tag : BitVec 16) : List EntryId :=
  oldestFirst s.orderAge (s.entriesWhere fun x => x.state = .waiting && x.ring = ring && x.record.tag = tag)

/-- R86: one order is removed. -/
def State.cancelOne (s : State) (e : EntryId) : State :=
  { s with
    gather := { s.gather with queue := s.gather.queue.filter (· ≠ e) }
    reader := { s.reader with waiting := s.reader.waiting.filter (· ≠ e) } }.goDone e (.plain .cancelled 0)

/-- R86: the CANCEL is carried out: the orders it names, then the CANCEL itself. The CANCEL is not WAITING. -/
def carryOutCancel (r : OrderRecord) (e : EntryId) (s : State) : State :=
  let u := s.mapEntry e fun x => { x with state := .active }
  let targets := u.cancelTargets r.cancelRing r.cancelTag
  (targets.foldl State.cancelOne u).goDone e (.plain .ok targets.length)

/-- R43, R88: a REVIVE at its acceptance. -/
def handToRevive (r : OrderRecord) (e : EntryId) (s : State) : State :=
  match (s.device r.position).state with
  | .absent => s.goDone e (.plain .noDevice 0)
  | .offline =>
    (s.mapEntry e fun x => { x with state := .active }).queueItem r.position (.ask (.revive e))
  | .waking | .idle | .cycling => s.goDone e (.plain .ok 0)

/-- R187: the 8 bytes of a device position in the report record. -/
def DeviceRecord.reportBytes (r : DeviceRecord) : List Byte :=
  [BitVec.ofNat 8 r.state.code, 0] ++ leBytes 2 r.failedAttempts.toNat ++ leBytes 4 r.pagesProgrammed.toNat

/-- R187: the 3 bytes of a buffer record in the report record. -/
def bufferReportBytes : Option Buffer → List Byte
  | none => [0, 0, 0]
  | some y => BitVec.ofNat 8 (16 * y.state.code + y.device.val) :: leBytes 2 y.page

/-- R181, R187: the 128 bytes of the report record as they stand. -/
def State.reportBytes (s : State) : List Byte :=
  [BitVec.ofNat 8 s.host.part.code, BitVec.ofNat 8 s.zones.guard.toNat, BitVec.ofNat 8 (copyCode s.loader.inUse),
    BitVec.ofNat 8 s.occupancy] ++ leBytes 4 s.loader.generation.toNat
    ++ [BitVec.ofNat 8 s.pool.failures.length, 0] ++ leBytes 2 s.pool.dropped.toNat ++ List.replicate 4 0
    ++ s.devices.toList.flatMap DeviceRecord.reportBytes ++ s.pool.buffers.toList.flatMap bufferReportBytes

/-- R89: a REPORT takes its snapshot and requests its store. -/
def takeReport (e : EntryId) (s : State) : State :=
  (s.mapEntry e fun x => { x with state := .active }).requestMaster (.reportStore e) s.reportBytes

/-! ### Meanings -/

/-- READ (R76). -/
def execRead (r : OrderRecord) (s : State) : Host.Outcome State Fault Refusal := s.accept .read r handToReader

/-- WRITE (R76). -/
def execWrite (r : OrderRecord) (s : State) : Host.Outcome State Fault Refusal := s.accept .write r handToGather

/-- FILL (R76). -/
def execFill (r : OrderRecord) (s : State) : Host.Outcome State Fault Refusal := s.accept .fill r handToGather

/-- FLUSH (R76). -/
def execFlush (r : OrderRecord) (s : State) : Host.Outcome State Fault Refusal := s.accept .flush r handToGather

/-- SET_ZONE (R76). -/
def execSetZone (r : OrderRecord) (s : State) : Host.Outcome State Fault Refusal := s.accept .setZone r handToGather

/-- SET_GEOMETRY (R76). -/
def execSetGeometry (r : OrderRecord) (s : State) : Host.Outcome State Fault Refusal :=
  s.accept .setGeometry r handToGather

/-- STORE_PROFILE (R76). -/
def execStoreProfile (r : OrderRecord) (s : State) : Host.Outcome State Fault Refusal :=
  s.accept .storeProfile r handToGather

/-- CANCEL (R86). -/
def execCancel (r : OrderRecord) (s : State) : Host.Outcome State Fault Refusal :=
  s.accept .cancel r (carryOutCancel r)

/-- REVIVE (R88). -/
def execRevive (r : OrderRecord) (s : State) : Host.Outcome State Fault Refusal := s.accept .revive r (handToRevive r)

/-- REPORT (R89). -/
def execReport (r : OrderRecord) (s : State) : Host.Outcome State Fault Refusal := s.accept .report r takeReport

/-- UNKNOWN_KIND (R73): refused BAD_ORDER; the entry keeps the code as fetched. -/
def execUnknownKind (code : Byte) (r : OrderRecord) (s : State) : Host.Outcome State Fault Refusal :=
  s.accept (.unknown code) r fun _ s => s

end Sys2Proof.Machine
end

