-- ==== Sys2Proof/Machine/Starts.lean ====
section
/-! DEFINITION. The family of starts and actions inside the part: each runs in the event that allows it (R85, R96, R108, R111, R116,
R150, R167), so as a command of its own it acts where its condition stands and else changes nothing. -/

namespace Sys2Proof.Machine

/-- R96: the head order starts if it is of this kind. -/
def State.startIf (s : State) (k : Kind) (start : EntryId → Entry → State) : Option State :=
  match s.headToStart with
  | some (e, x) => if x.kind = k then some (start e x) else none
  | none => none

/-- WRITE_START (R97). -/
def execWriteStart (s : State) : Host.Outcome State Fault Refusal :=
  s.react fun s => s.startIf .write fun e x => s.startMerging e x .hostData

/-- FILL_START (R97): its pattern spans are merged in the same event as far as buffers are to be had. -/
def execFillStart (s : State) : Host.Outcome State Fault Refusal :=
  s.react fun s => s.startIf .fill fun e x => s.startMerging e x (.pattern x.record.selector)

/-- READ_START (R117). -/
def execReadStart (s : State) : Host.Outcome State Fault Refusal := s.react fun s => s.readToStart.map s.startRead

/-- READ_RESUME (R116). -/
def execReadResume (s : State) : Host.Outcome State Fault Refusal := s.react fun s => s.readToResume.map s.resumeRead

/-- FLUSH_START (R107). -/
def execFlushStart (s : State) : Host.Outcome State Fault Refusal :=
  s.react fun s => s.startIf .flush s.startFlush

/-- SET_ZONE_START (R138). -/
def execSetZoneStart (s : State) : Host.Outcome State Fault Refusal :=
  s.react fun s => s.startIf .setZone s.startSetZone

/-- SET_GEOMETRY_START (R151). -/
def execSetGeometryStart (s : State) : Host.Outcome State Fault Refusal :=
  s.react fun s => s.startIf .setGeometry s.startSetGeometry

/-- STORE_PROFILE_START (R153). -/
def execStoreProfileStart (s : State) : Host.Outcome State Fault Refusal :=
  s.react fun s => s.startIf .storeProfile fun e _ => s.startStoreProfile e

/-- ALLOCATION_REQUEST_SERVED (R7): the lowest-index FREE record is taken and the waiting span merged. -/
def execAllocationRequestServed (s : State) : Host.Outcome State Fault Refusal := s.react State.serveRequest?

/-- R103: the earliest HELD durable order whose last page result has arrived. -/
def State.durableDue (s : State) : Option EntryId :=
  oldestBy s.orderAge (s.entriesWhere fun x => x.durable && x.state = .held && x.progress = 0)

/-- DURABLE_ORDER_END (R103). -/
def execDurableOrderEnd (s : State) : Host.Outcome State Fault Refusal :=
  s.react fun s => s.durableDue.map s.endDurable

/-- FLUSH_REPORT (R108, R109). -/
def execFlushReport (s : State) : Host.Outcome State Fault Refusal :=
  s.react fun s => if s.flushesDue = [] then none else some s.reportFlushes

/-- R111: the barrier order that holds the turn with an empty watch, if it is of this kind. -/
def State.actIf (s : State) (k : Kind) (act : EntryId → Entry → State) : Option State :=
  match s.barrierDue with
  | some (e, x) => if x.kind = k then some (act e x) else none
  | none => none

/-- SET_ZONE_ACTION (R139). -/
def execSetZoneAction (s : State) : Host.Outcome State Fault Refusal :=
  s.react fun s => s.actIf .setZone s.actSetZone

/-- SET_GEOMETRY_APPLY (R152). -/
def execSetGeometryApply (s : State) : Host.Outcome State Fault Refusal :=
  s.react fun s => s.actIf .setGeometry s.actSetGeometry

/-- STORE_PROFILE_BUILD (R154). -/
def execStoreProfileBuild (s : State) : Host.Outcome State Fault Refusal :=
  s.react fun s => s.actIf .storeProfile fun e _ => s.actStoreProfile e

/-- LOAD_END (R150). -/
def execLoadEnd (s : State) : Host.Outcome State Fault Refusal := s.react State.loadEnd?

/-- DRAIN_END (R167). -/
def execDrainEnd (s : State) : Host.Outcome State Fault Refusal := s.react State.drainEnd?

end Sys2Proof.Machine
end

