-- ==== Sys2Proof/Machine/Frames.lean ====
section
/-! DEFINITION. The family of frame ends and timer expiries on the serial channels and in the pool (R14, R24, R30 to R36, R43, R53, R59,
R122, R148). -/

namespace Sys2Proof.Machine

/-! ### The end of a frame -/

/-- R24: the channel is free. -/
def State.freeChannel (s : State) (c : ChannelId) : State := s.mapChannel c fun ch => { ch with frame := none }

/-- R24, R38: the frame in progress on a channel ends, if it is one that `kind` knows; a dropped frame's result is not
used. -/
def State.frameEnd {α : Type} (s : State) (c : ChannelId) (kind : FrameContent → Option α)
    (act : State → DevicePos → α → State) : Option State :=
  match (s.channel c).frame with
  | none => none
  | some f =>
    (kind f.content).map fun a =>
      if f.dropped then s.freeChannel c else act (s.freeChannel c) f.device a

/-- The frame is a status ask on this behalf. -/
def FrameContent.isAsk (p : AskPurpose) : FrameContent → Option Unit
  | .ask q => if q = p then some () else none
  | _ => none

/-- R37: a no-answer is counted; the third in a row takes the device OFFLINE, another has it go on. -/
def State.countNoAnswer (s : State) (d : DevicePos) (goOn : DeviceRecord → DeviceRecord) : State :=
  if 3 ≤ (s.device d).noAnswer + 1 then s.goOffline d .offline
  else s.mapDevice d fun r => goOn { r with noAnswer := r.noAnswer + 1 }

/-- The buffer that holds the device's program slot takes an outcome. -/
def State.withSlot (s : State) (d : DevicePos) (act : State → BufferId → State) : State :=
  match (s.device d).slot with
  | some b => act s b
  | none => s

/-! ### Program starts and status asks -/

/-- The frame is a program start. -/
def FrameContent.isStart : FrameContent → Option Unit
  | .programStart _ _ _ => some ()
  | _ => none

/-- R33: the cycle timer starts and the confirming ask is queued. -/
def State.loadEnded (s : State) (d : DevicePos) : State :=
  (s.mapDevice d fun r => { r with cycleTimer := some (s.cycleTimeout d), confirming := true }).queueItem d
    (.ask .confirming)

/-- PAGE_LOAD_END (R33). -/
def execPageLoadEnd (c : ChannelId) (s : State) : Host.Outcome State Fault Refusal :=
  s.react fun s => s.frameEnd c FrameContent.isStart fun s d _ => s.loadEnded d

/-- R34: the device moves to CYCLING, its poll timer started. -/
def DeviceRecord.cycles (r : DeviceRecord) : DeviceRecord :=
  { r with state := .cycling, pollTimer := true, confirming := false }

/-- R34, R55: the answer to the confirming ask. -/
def State.confirmed (s : State) (d : DevicePos) : Answer → State
  | .good true _ => s.mapDevice d fun r => { r.cycles with noAnswer := 0 }
  | .good false _ =>
    (s.mapDevice d fun r => { r with cycleTimer := none, noAnswer := 0, confirming := false }).withSlot d
      fun s b => s.failAttempt b .noCycle
  | .none => s.countNoAnswer d DeviceRecord.cycles

/-- CONFIRMING_ASK_END (R34). -/
def execConfirmingAskEnd (c : ChannelId) (status : Byte) (s : State) : Host.Outcome State Fault Refusal :=
  s.react fun s => s.frameEnd c (FrameContent.isAsk .confirming) fun s d _ => s.confirmed d (answerOf status)

/-- R35, R56: the answer to a poll; the entry to IDLE and the buffer's outcome are one event. -/
def State.polled (s : State) (d : DevicePos) : Answer → State
  | .good true _ => s.mapDevice d fun r => { r with noAnswer := 0, pollTimer := true }
  | .good false false => (s.enterIdle d).withSlot d State.cycleGood
  | .good false true => (s.enterIdle d).withSlot d fun s b => s.failAttempt b .deviceFlag
  | .none => s.countNoAnswer d fun r => { r with pollTimer := true }

/-- POLL_END (R35). -/
def execPollEnd (c : ChannelId) (status : Byte) (s : State) : Host.Outcome State Fault Refusal :=
  s.react fun s => s.frameEnd c (FrameContent.isAsk .poll) fun s d _ => s.polled d (answerOf status)

/-- R32: the answer to a wake ask; CYCLE_FAULT is disregarded. -/
def State.wakeAnswered (s : State) (d : DevicePos) : Answer → State
  | .good false _ => s.enterIdle d
  | .good true _ => s.mapDevice d fun r => { r with noAnswer := 0, pollTimer := true }
  | .none => s.countNoAnswer d fun r => { r with pollTimer := true }

/-- WAKE_ASK_END (R32). -/
def execWakeAskEnd (c : ChannelId) (status : Byte) (s : State) : Host.Outcome State Fault Refusal :=
  s.react fun s => s.frameEnd c (FrameContent.isAsk .wake) fun s d _ => s.wakeAnswered d (answerOf status)

/-- The frame is a REVIVE's status ask. -/
def FrameContent.isRevive : FrameContent → Option EntryId
  | .ask (.revive e) => some e
  | _ => none

/-- R43: the answer to a REVIVE ask. A device that a geometry change has made ABSENT while the frame was on the wires is not
brought to IDLE (notes/assumptions/7.md). -/
def State.reviveAnswered (s : State) (d : DevicePos) (e : EntryId) (a : Answer) : State :=
  if (s.device d).state = .absent then s.goDone e (.plain .noDevice 0)
  else
    match a with
    | .good false _ => (s.enterIdle d).goDone e (.plain .ok 0)
    | _ => s.goDone e (.plain .deviceOffline 0)

/-- REVIVE_ASK_END (R43). -/
def execReviveAskEnd (c : ChannelId) (status : Byte) (s : State) : Host.Outcome State Fault Refusal :=
  s.react fun s => s.frameEnd c FrameContent.isRevive fun s d e => s.reviveAnswered d e (answerOf status)

/-! ### Stream reads -/

/-- The frame is a gap fill; with its buffer and run length. -/
def FrameContent.isFill : FrameContent → Option (BufferId × Nat)
  | .stream (.fillRead b) _ n => some (b, n)
  | _ => none

/-- R53: the holes of the span are filled and the program start is queued. -/
def State.filled (s : State) (d : DevicePos) (b : BufferId) (bytes : List Byte) : State :=
  (s.mapBuffer b fun y => { y with image := fillHoles y.image (imageBounds y.image).1 bytes }).queueStart b d

/-- FILL_READ_END (R53). -/
def execFillReadEnd (c : ChannelId) (bytes : List Byte) (s : State) : Host.Outcome State Fault Refusal :=
  s.react fun s => s.frameEnd c FrameContent.isFill fun s d p => s.filled d p.1 (clocked p.2 bytes)

/-- The frame is a verify read; with its buffer and run length. -/
def FrameContent.isVerify : FrameContent → Option (BufferId × Nat)
  | .stream (.verifyRead b) _ n => some (b, n)
  | _ => none

/-- R59: the span is compared with the bytes returned: success, or the attempt fails VERIFY. -/
def State.verified (s : State) (b : BufferId) (bytes : List Byte) : State :=
  match s.buffer? b with
  | none => s
  | some y => if y.spanPlaces = bytes.map some then s.succeed b else s.failAttempt b .verify

/-- VERIFY_READ_END (R59). -/
def execVerifyReadEnd (c : ChannelId) (bytes : List Byte) (s : State) : Host.Outcome State Fault Refusal :=
  s.react fun s => s.frameEnd c FrameContent.isVerify fun s _ p => s.verified p.1 (clocked p.2 bytes)

/-- The frame is a host read; with its run. -/
def FrameContent.isHostRead : FrameContent → Option (Nat × Nat)
  | .stream (.hostRead _) address n => some (address, n)
  | _ => none

/-- R122: the span of the active read is assembled, or a further item queued. -/
def State.hostReadEnded (s : State) (address : Nat) (bytes : List Byte) : State :=
  match s.readInHand with
  | none => s
  | some (a, x) => s.overlayRead a x (address - a.span.address) bytes

/-- HOST_READ_FRAME_END (R122). -/
def execHostReadFrameEnd (c : ChannelId) (bytes : List Byte) (s : State) : Host.Outcome State Fault Refusal :=
  s.react fun s => s.frameEnd c FrameContent.isHostRead fun s _ p => s.hostReadEnded p.1 (clocked p.2 bytes)

/-- The frame is the read of this profile copy. -/
def FrameContent.isCopy (k : CopyId) : FrameContent → Option Unit
  | .stream (.copyRead j) _ _ => if j = k then some () else none
  | _ => none

/-- R148: copy A is judged and the read of copy B queued. -/
def State.copyARead (s : State) (bytes : List Byte) : State :=
  let judged := judgeCopy s.loader.bootWidth bytes
  { s with loader := { s.loader with
      copyA := judged.map Profile.generation, judgedA := judged, phase := some .readB } }.queueItem 0 (.copyRead .b)

/-- COPY_A_READ_END (R148). -/
def execCopyAReadEnd (bytes : List Byte) (s : State) : Host.Outcome State Fault Refusal :=
  s.react fun s => s.frameEnd 0 (FrameContent.isCopy .a) fun s _ _ => s.copyARead (clocked 256 bytes)

/-- R148, R149: copy B is judged and the choice made. -/
def State.copyBRead (s : State) (bytes : List Byte) : State :=
  let judged := judgeCopy s.loader.bootWidth bytes
  { s with loader := { s.loader with copyB := judged.map Profile.generation } }.chooseProfile s.loader.judgedA judged

/-- COPY_B_READ_END (R148). -/
def execCopyBReadEnd (bytes : List Byte) (s : State) : Host.Outcome State Fault Refusal :=
  s.react fun s => s.frameEnd 0 (FrameContent.isCopy .b) fun s _ _ => s.copyBRead (clocked 256 bytes)

/-! ### Timers -/

/-- LINGER_EXPIRY (R14): the buffer closes; an expiry that no timer runs for does not arrive. -/
def execLingerExpiry (b : BufferId) (s : State) : Host.Outcome State Fault Refusal :=
  s.react fun s =>
    match s.buffer? b with
    | some y => if y.state = .gathering ∧ y.linger.isSome = true then some (s.closeBuffer b) else none
    | none => none

/-- R30: the status ask that a poll timer queues, by the state it was started for. -/
def DeviceState.pollAsk : DeviceState → Option AskPurpose
  | .waking => some .wake
  | .cycling => some .poll
  | _ => none

/-- POLL_TIMER_EXPIRY (R30). -/
def execPollTimerExpiry (d : DevicePos) (s : State) : Host.Outcome State Fault Refusal :=
  s.react fun s =>
    if (s.device d).pollTimer then
      (s.device d).state.pollAsk.map fun p =>
        (s.mapDevice d fun r => { r with pollTimer := false }).queueItem d (.ask p)
    else none

/-- WAKE_LIMIT_EXPIRY (R31). -/
def execWakeLimitExpiry (d : DevicePos) (s : State) : Host.Outcome State Fault Refusal :=
  s.react fun s =>
    if (s.device d).state = .waking ∧ (s.device d).wakeLimit.isSome = true then some (s.goOffline d .offline) else none

/-- CYCLE_TIMER_EXPIRY (R36): the cycle has overrun while CYCLING or awaiting the confirming ask. -/
def execCycleTimerExpiry (d : DevicePos) (s : State) : Host.Outcome State Fault Refusal :=
  s.react fun s =>
    if (s.device d).cycleTimer.isSome = true
        ∧ ((s.device d).state = .cycling ∨ ((s.device d).state = .idle ∧ (s.device d).confirming = true))
    then some (s.goOffline d .timeout) else none

end Sys2Proof.Machine
end

