-- ==== Sys2Proof/Machine/Dispatch.lean ====
section
/-! DEFINITION. The dispatch: one arm per command, each one direct call of its meaning. -/

namespace Sys2Proof.Machine

def exec (i : Instr) (s : State) : Host.Outcome State Fault Refusal :=
  match i with
  | .linkReset => Sys2Proof.Machine.execLinkReset s
  | .hrstRelease bw => Sys2Proof.Machine.execHrstRelease bw s
  | .grdChange a => Sys2Proof.Machine.execGrdChange a s
  | .runSet ie fe => Sys2Proof.Machine.execRunSet ie fe s
  | .runClear ie fe => Sys2Proof.Machine.execRunClear ie fe s
  | .intEnable v => Sys2Proof.Machine.execIntEnable v s
  | .faultIntEnable v => Sys2Proof.Machine.execFaultIntEnable v s
  | .localReset ie fe bw => Sys2Proof.Machine.execLocalReset ie fe bw s
  | .localResetAtBurstEnd bw => Sys2Proof.Machine.execLocalResetAtBurstEnd bw s
  | .setupAddrWrite v => Sys2Proof.Machine.execSetupAddrWrite v s
  | .ntailWrite v => Sys2Proof.Machine.execNtailWrite v s
  | .utailWrite v => Sys2Proof.Machine.execUtailWrite v s
  | .cheadWrite v => Sys2Proof.Machine.execCheadWrite v s
  | .faultWrite v => Sys2Proof.Machine.execFaultWrite v s
  | .registerWriteIgnored r v be => Sys2Proof.Machine.execRegisterWriteIgnored r v be s
  | .masterBurstComplete => Sys2Proof.Machine.execMasterBurstComplete s
  | .masterBurstRetry n => Sys2Proof.Machine.execMasterBurstRetry n s
  | .setupBlockReadEnd r => Sys2Proof.Machine.execSetupBlockReadEnd r s
  | .orderFetchHostFault f => Sys2Proof.Machine.execOrderFetchHostFault f s
  | .read r => Sys2Proof.Machine.execRead r s
  | .write r => Sys2Proof.Machine.execWrite r s
  | .fill r => Sys2Proof.Machine.execFill r s
  | .flush r => Sys2Proof.Machine.execFlush r s
  | .setZone r => Sys2Proof.Machine.execSetZone r s
  | .setGeometry r => Sys2Proof.Machine.execSetGeometry r s
  | .storeProfile r => Sys2Proof.Machine.execStoreProfile r s
  | .cancel r => Sys2Proof.Machine.execCancel r s
  | .revive r => Sys2Proof.Machine.execRevive r s
  | .report r => Sys2Proof.Machine.execReport r s
  | .unknownKind k r => Sys2Proof.Machine.execUnknownKind k r s
  | .completionWriteEnd r => Sys2Proof.Machine.execCompletionWriteEnd r s
  | .writeDataReadEnd r => Sys2Proof.Machine.execWriteDataReadEnd r s
  | .readDataStoreEnd r => Sys2Proof.Machine.execReadDataStoreEnd r s
  | .reportStoreEnd r => Sys2Proof.Machine.execReportStoreEnd r s
  | .writeStart => Sys2Proof.Machine.execWriteStart s
  | .fillStart => Sys2Proof.Machine.execFillStart s
  | .readStart => Sys2Proof.Machine.execReadStart s
  | .readResume => Sys2Proof.Machine.execReadResume s
  | .flushStart => Sys2Proof.Machine.execFlushStart s
  | .setZoneStart => Sys2Proof.Machine.execSetZoneStart s
  | .setGeometryStart => Sys2Proof.Machine.execSetGeometryStart s
  | .storeProfileStart => Sys2Proof.Machine.execStoreProfileStart s
  | .allocationRequestServed => Sys2Proof.Machine.execAllocationRequestServed s
  | .lingerExpiry b => Sys2Proof.Machine.execLingerExpiry b s
  | .pageLoadEnd c => Sys2Proof.Machine.execPageLoadEnd c s
  | .confirmingAskEnd c st => Sys2Proof.Machine.execConfirmingAskEnd c st s
  | .pollEnd c st => Sys2Proof.Machine.execPollEnd c st s
  | .wakeAskEnd c st => Sys2Proof.Machine.execWakeAskEnd c st s
  | .reviveAskEnd c st => Sys2Proof.Machine.execReviveAskEnd c st s
  | .fillReadEnd c bs => Sys2Proof.Machine.execFillReadEnd c bs s
  | .verifyReadEnd c bs => Sys2Proof.Machine.execVerifyReadEnd c bs s
  | .hostReadFrameEnd c bs => Sys2Proof.Machine.execHostReadFrameEnd c bs s
  | .copyAReadEnd bs => Sys2Proof.Machine.execCopyAReadEnd bs s
  | .copyBReadEnd bs => Sys2Proof.Machine.execCopyBReadEnd bs s
  | .pollTimerExpiry d => Sys2Proof.Machine.execPollTimerExpiry d s
  | .wakeLimitExpiry d => Sys2Proof.Machine.execWakeLimitExpiry d s
  | .cycleTimerExpiry d => Sys2Proof.Machine.execCycleTimerExpiry d s
  | .durableOrderEnd => Sys2Proof.Machine.execDurableOrderEnd s
  | .flushReport => Sys2Proof.Machine.execFlushReport s
  | .setZoneAction => Sys2Proof.Machine.execSetZoneAction s
  | .setGeometryApply => Sys2Proof.Machine.execSetGeometryApply s
  | .storeProfileBuild => Sys2Proof.Machine.execStoreProfileBuild s
  | .loadEnd => Sys2Proof.Machine.execLoadEnd s
  | .drainEnd => Sys2Proof.Machine.execDrainEnd s

end Sys2Proof.Machine
end

