-- ==== Sys2Proof/Safety.lean ====
section
/-! DEFINITION. What a safe state of the block is, in the terms the statements use: the host side's indices and part state agree
(R166 to R172, R177), at most one open buffer stands for a page (R3), lists and counts keep their bounds (R1, R20, R30), and INTREQ
follows its condition (R174). -/

namespace Sys2Proof.Machine

/-- A FAULT flag is set. -/
def State.flag (s : State) (f : FaultFlag) : Bool := s.host.fault.getLsbD f.bit

/-- R174: INTREQ is asserted exactly while one of its two conditions holds. -/
def State.IntreqFollows (s : State) : Prop :=
  s.pins.intreq = true ↔
    (s.host.intEnable = true ∧ ∃ c, s.fetch.config = some c ∧
        (c.threshold ≤ (s.poster.tail + c.completion.size - s.poster.head) % c.completion.size ∨
          (0 < (s.poster.tail + c.completion.size - s.poster.head) % c.completion.size ∧
            ∀ e, s.entry? e = none)))
      ∨ (s.host.faultIntEnable = true ∧ s.host.fault ≠ 0)

/-- The transfer on the bus is the setup block read. -/
def HostPort.readsSetup (h : HostPort) : Prop := ∃ t, h.engine = some t ∧ t.job = .setupRead

/-- R169, R172: unconfigured rings have every index 0; configured rings have every index below its size. -/
def State.IndicesFit (s : State) : Prop :=
  match s.fetch.config with
  | none =>
    s.fetch.normalHead = 0 ∧ s.fetch.normalTail = 0 ∧ s.fetch.urgentHead = 0 ∧ s.fetch.urgentTail = 0
      ∧ s.poster.tail = 0 ∧ s.poster.head = 0
  | some c =>
    s.fetch.normalHead < c.normal.size ∧ s.fetch.normalTail < c.normal.size
      ∧ s.fetch.urgentHead < c.urgent.size ∧ s.fetch.urgentTail < c.urgent.size
      ∧ s.poster.tail < c.completion.size ∧ s.poster.head < c.completion.size

/-- The host side of a state that runs can reach: HRST asserted holds it in reset (R164); the ring indices fit; the six low
bits of SETUP_ADDR are 0 (R162); the urgent run count is at most 4 (R170); in HALTED the engine is idle (R177); the setup
block is read only in SETTING_UP, and a request to read it waits only there or in HALTED, never beside the read itself
(R159, R166); the rings are unconfigured in LOADING and in SETTING_UP (R163, R166). -/
structure State.HostOk (s : State) : Prop where
  held : s.pins.hrst = true → s.host = HostPort.reset ∧ s.fetch = RingFetch.reset ∧ s.poster = Poster.reset
  indices : s.IndicesFit
  setupAddr : s.host.setupAddr.toNat % 64 = 0
  urgentRun : s.fetch.urgentRun ≤ 4
  halted : s.host.part = .halted → s.host.engine = none
  setupOnBus : s.host.readsSetup → s.host.part = .settingUp
  setupWaits : s.host.setupRequest = true → (s.host.part = .settingUp ∨ s.host.part = .halted) ∧ ¬ s.host.readsSetup
  unconfigured : s.host.part = .loading ∨ s.host.part = .settingUp → s.fetch.config = none

/-- A buffer that is GATHERING or CLOSED. -/
def Buffer.isOpen (y : Buffer) : Prop := y.state = .gathering ∨ y.state = .closed

/-- The pool and the devices of a state that runs can reach: at most one GATHERING or CLOSED buffer for a page (R3), no
GATHERING buffer of the page that a standing allocation request asks for (R4), at most 8 contributors (R1, R11), at most 8
failure list entries (R20), and a no-answer count of at most 2 (R30). -/
structure State.PoolOk (s : State) : Prop where
  onePerPage : ∀ b b' y y', s.buffer? b = some y → s.buffer? b' = some y' → y.isOpen → y'.isOpen →
    y.device = y'.device → y.page = y'.page → b = b'
  requestOpen : ∀ r, s.pool.request = some r → ∀ b y, s.buffer? b = some y → y.state = .gathering →
    ¬ (y.device = r.device ∧ y.page = r.page)
  contributors : ∀ b y, s.buffer? b = some y → y.contributors.length ≤ 8
  failures : s.pool.failures.length ≤ 8
  noAnswer : ∀ d, (s.device d).noAnswer ≤ 2

/-- R70: what acceptance writes into an entry and nothing changes afterwards. -/
structure Identity where
  ring : RingId
  slot : Nat
  kind : Kind
  record : OrderRecord
  sequence : Option (BitVec 32)
  deriving DecidableEq, Repr

/-- The identity of an entry. -/
def Entry.identity (x : Entry) : Identity := ⟨x.ring, x.slot, x.kind, x.record, x.sequence⟩

end Sys2Proof.Machine

namespace Sys2Proof

open Machine

/-- The commands that can bring about a reset in a state without a pending local reset. -/
def Instr.isReset : Instr → Bool
  | .linkReset | .localReset _ _ _ => true
  | _ => false

/-- R157, R158: the command ends the burst in progress of this transfer, good, in a RETRY or in a host fault. -/
def Instr.endsBurst (c : Instr) (t : Transfer) : Bool :=
  match c, t.job with
  | .masterBurstComplete, _ => !t.lastBurst
  | .masterBurstRetry n, _ => t.taken + n < t.burst
  | .setupBlockReadEnd _, .setupRead => t.lastBurst
  | .orderFetchHostFault _, .orderFetch _ _ => true
  | .completionWriteEnd r, .completionWrite _ => t.mayEndWrite r
  | .writeDataReadEnd r, .writeData _ => t.mayEndRead r
  | .readDataStoreEnd r, .readData _ => t.mayEndWrite r
  | .reportStoreEnd r, .reportStore _ => t.mayEndWrite r
  | c, .orderFetch _ _ => c.slot?.isSome
  | _, _ => false

end Sys2Proof

namespace Sys2Proof.Machine

/-! ### What the statements about single commands share -/

/-- The state in which the event of a reset's end leaves the part (R147, R164, and each block's reset rule): LOADING with the boot
wake of device 0 on channel 0, every other block in its reset state. `bw` is the level of BW, `guard` that of GRD. -/
structure State.LoadingBegun (t : State) (bw guard : Bool) : Prop where
  part : t.host.part = .loading
  run : t.host.run = false
  fault : t.host.fault = 0
  notPending : t.host.resetPending = false
  engine : t.host.engine = none
  requests : t.host.requests = [] ∧ t.host.setupRequest = false
  released : t.pins.hrst = false ∧ t.pins.intreq = false
  fetch : t.fetch.config = none ∧ t.fetch.normalHead = 0 ∧ t.fetch.normalTail = 0 ∧ t.fetch.urgentHead = 0
    ∧ t.fetch.urgentTail = 0 ∧ t.fetch.urgentRun = 0
  poster : t.poster.tail = 0 ∧ t.poster.head = 0 ∧ t.poster.serial = 0
  orders : (∀ e, t.entry? e = none) ∧ t.orders.sequence = 0 ∧ t.orders.done = []
  gather : t.gather.queue = [] ∧ t.gather.turn = none
  reader : t.reader.waiting = [] ∧ t.reader.active = none ∧ t.reader.ready = [] ∧ ∀ d : DevicePos, t.reader.deferred[d] = []
  pool : (∀ b, t.buffer? b = none) ∧ t.pool.sequence = 0 ∧ t.pool.linger = 0 ∧ t.pool.request = none ∧ t.pool.failures = []
    ∧ t.pool.dropped = 0
  zones : (∀ i : ZoneIndex, t.zones.entries[i] = none) ∧ t.zones.guard = guard
  loader : t.loader.phase = some .wake0 ∧ t.loader.bootWidth = (if bw then .three else .two) ∧ t.loader.copyA = none
    ∧ t.loader.copyB = none ∧ t.loader.inUse = none ∧ t.loader.generation = 0
  bootGeometry : ∃ g, t.loader.geometry[(0 : DevicePos)] = some g ∧ g.pageSize = .b16 ∧ g.pageCount = 64
    ∧ g.width = (if bw then .three else .two)
  otherGeometry : ∀ d : DevicePos, d ≠ 0 → t.loader.geometry[d] = none
  bootWake : (t.device 0).state = .waking ∧ (t.device 0).wakeLimit = some 255 ∧ (t.device 0).noAnswer = 0
  otherDevices : ∀ d : DevicePos, d ≠ 0 → t.device d = DeviceRecord.reset
  channel0 : t.channel 0 = ⟨[], some ⟨0, .ask .wake, (if bw then .three else .two), false⟩, [], 0⟩
  channel1 : t.channel 1 = ChannelEngine.reset

/-- R164: while HRST is asserted, every block stands in its link reset state. -/
structure State.HeldInReset (s : State) : Prop where
  lines : s.pins.hrst = true ∧ s.pins.intreq = false
  host : s.host.part = .loading ∧ s.host.run = false ∧ s.host.intEnable = false ∧ s.host.faultIntEnable = false
    ∧ s.host.setupAddr = 0 ∧ s.host.fault = 0 ∧ s.host.resetPending = false
  engine : s.host.engine = none ∧ s.host.setupRequest = false ∧ s.host.requests = []
  fetch : s.fetch.config = none ∧ s.fetch.normalHead = 0 ∧ s.fetch.normalTail = 0 ∧ s.fetch.urgentHead = 0
    ∧ s.fetch.urgentTail = 0 ∧ s.fetch.urgentRun = 0
  poster : s.poster.tail = 0 ∧ s.poster.head = 0 ∧ s.poster.serial = 0
  orders : (∀ e, s.entry? e = none) ∧ s.orders.sequence = 0 ∧ s.orders.done = []
  gather : s.gather.queue = [] ∧ s.gather.turn = none
  reader : s.reader.waiting = [] ∧ s.reader.active = none ∧ s.reader.ready = [] ∧ ∀ d : DevicePos, s.reader.deferred[d] = []
  pool : (∀ b, s.buffer? b = none) ∧ s.pool.sequence = 0 ∧ s.pool.linger = 0 ∧ s.pool.request = none ∧ s.pool.failures = []
    ∧ s.pool.dropped = 0
  channels : ∀ c, (s.channel c).queue = [] ∧ (s.channel c).frame = none ∧ (s.channel c).waiting = []
    ∧ (s.channel c).lastGranted = 3
  devices : ∀ d, (s.device d).state = .absent ∧ (s.device d).wakeLimit = none ∧ (s.device d).cycleTimer = none
    ∧ (s.device d).pollTimer = false ∧ (s.device d).noAnswer = 0 ∧ (s.device d).confirming = false ∧ (s.device d).slot = none
    ∧ (s.device d).pagesProgrammed = 0 ∧ (s.device d).failedAttempts = 0
  zones : ∀ i : ZoneIndex, s.zones.entries[i] = none
  geometry : ∀ d : DevicePos, s.loader.geometry[d] = none
  loader : s.loader.copyA = none ∧ s.loader.copyB = none ∧ s.loader.inUse = none ∧ s.loader.generation = 0
    ∧ s.loader.phase = none ∧ s.loader.judgedA = none

/-- HRST is released and no local reset is pending: every command has its own effect (R163, R164). -/
def State.Live (s : State) : Prop := s.pins.hrst = false ∧ s.host.resetPending = false

/-- R16, R17: `u` has every GATHERING buffer of `s` that meets `p` closed, its linger expiry removed, and at the tail of its
channel's program queue, the oldest first; no other buffer and nothing else of a channel is changed. -/
structure State.ClosesGathering (s u : State) (p : Buffer → Bool) : Prop where
  buffers : ∀ b, u.buffer? b = (s.buffer? b).map fun y =>
    if y.state = .gathering ∧ p y = true then { y with state := .closed, linger := none } else y
  queues : ∀ c, ∃ l, u.channel c = { s.channel c with queue := (s.channel c).queue ++ l }
    ∧ l.Pairwise (fun b b' => s.bufferAge b' ≤ s.bufferAge b) ∧ l.Nodup
    ∧ ∀ b, b ∈ l ↔ ∃ y, s.buffer? b = some y ∧ y.state = .gathering ∧ p y = true ∧ channelOf y.device = c

/-- R80, R90, R91: order `e`, whose entry was `x`, is DONE with this result at the tail of the done queue; no other entry is
changed, and no number is taken. -/
structure State.EndsOrder (s u : State) (e : EntryId) (x : Entry) (r : Result) : Prop where
  entry : u.entry? e = some { x with state := .done, result := some r }
  done : u.orders.done = s.orders.done ++ [e]
  others : ∀ e', e' ≠ e → u.entry? e' = s.entry? e'
  sequence : u.orders.sequence = s.orders.sequence

/-- R17: `u` has the GATHERING buffers of the list closed, in list order; no other buffer and nothing else of a channel is changed. -/
structure State.ClosesListed (s u : State) (l : List BufferId) : Prop where
  buffers : ∀ b, u.buffer? b = (s.buffer? b).map fun y =>
    if y.state = .gathering ∧ b ∈ l then { y with state := .closed, linger := none } else y
  queues : ∀ c, u.channel c = { s.channel c with
    queue := (s.channel c).queue ++ l.filter (fun b => match s.buffer? b with
      | some y => y.state = .gathering ∧ channelOf y.device = c
      | none => false) }

/-- R157: the words of the burst in progress: to the transfer's end, to the next 64-byte boundary of host address, at most 16. -/
def Transfer.inBurst (t : Transfer) : Nat := min (t.words - t.moved) (16 - (t.address / 4 + t.moved) % 16)

/-- R165: the setup block is bad, row by row. -/
def SetupBad (b : SetupBlock) : Prop :=
  let sizeBad (lo hi : Nat) (n : BitVec 16) : Prop := ¬ ∃ k, lo ≤ k ∧ k ≤ hi ∧ n.toNat = 2 ^ k
  (b.normalBase.toNat % 64 ≠ 0 ∨ b.urgentBase.toNat % 64 ≠ 0 ∨ b.completionBase.toNat % 64 ≠ 0)
  ∨ sizeBad 3 10 b.normalSize ∨ sizeBad 3 10 b.urgentSize ∨ sizeBad 4 11 b.completionSize
  ∨ (0x100000000 < b.normalBase.toNat + b.normalSize.toNat * 32 ∨ 0x100000000 < b.urgentBase.toNat + b.urgentSize.toNat * 32
    ∨ 0x100000000 < b.completionBase.toNat + b.completionSize.toNat * 16)
  ∨ (b.threshold = 0 ∨ 64 < b.threshold.toNat) ∨ b.reserved ≠ 0

/-- R123: `u` is `s` after the active read `e`, whose entry is `x`, has parked on device `d`: PARKED at the end of the device's
deferred read list, its span dropped, its waiting item withdrawn. -/
def State.ParksRead (s u : State) (e : EntryId) (x : Entry) (d : DevicePos) : Prop :=
  u = { s with
        orders := { s.orders with entries := u.orders.entries },
        reader := { s.reader with active := none, deferred := u.reader.deferred },
        channels := u.channels }
  ∧ u.entry? e = some { x with state := .parked }
  ∧ (∀ e', e' ≠ e → u.entry? e' = s.entry? e')
  ∧ (∀ d' : DevicePos, u.reader.deferred[d'] = if d' = d then s.reader.deferred[d'] ++ [e] else s.reader.deferred[d'])
  ∧ ∀ c, u.channel c = if c = channelOf d then
      { s.channel c with waiting := (s.channel c).waiting.filter fun i => i.device ≠ d ∨ i.work ≠ .hostRead e }
    else s.channel c

/-- R125: `u` is `s` after the active read `e`, whose entry is `x`, has its span in hand assembled with these bytes: the delivery is
requested, and with its last span the read enters DELIVERING. -/
def State.AssemblesSpan (s u : State) (e : EntryId) (x : Entry) (sp : Span) (staging : List Staged) : Prop :=
  u = { s with
        orders := { s.orders with entries := u.orders.entries },
        reader := { s.reader with active := some ⟨e, sp, staging, true⟩ },
        host := { s.host with requests := s.host.requests ++ [⟨.readData e, s.event, []⟩] } }
  ∧ u.entry? e = some { x with state := if x.record.length ≤ x.progress + sp.length then .delivering else x.state }
  ∧ ∀ e', e' ≠ e → u.entry? e' = s.entry? e'

/-- R120: `u` is `s` after the active read `e` has asked for the device bytes of its span in hand: a class-2 item of this event
for an IDLE device, else it parks. -/
def State.AsksDevice (s u : State) (e : EntryId) (x : Entry) (d : DevicePos) (sp : Span) (staging : List Staged) : Prop :=
  if (s.device d).state = .idle then
    u = { s with reader := { s.reader with active := some ⟨e, sp, staging, false⟩ }, channels := u.channels }
    ∧ ∀ c, u.channel c = if c = channelOf d then
        { s.channel c with waiting := (s.channel c).waiting ++ [⟨d, .hostRead e, s.event⟩] } else s.channel c
  else s.ParksRead u e x d

/-- R118 to R123: `u` is `s` after the active read `e`, whose entry is `x`, has taken the span at its progress: the span ends with
the page or the range; with a buffer source for every byte it is assembled, else the device is asked. -/
def State.TakesReadSpan (s u : State) (e : EntryId) (x : Entry) : Prop :=
  let d := x.record.position
  let at_ := x.record.address.toNat + x.progress
  let sp : Span := ⟨at_, min (x.record.length - x.progress) (s.pageSize d - at_ % s.pageSize d)⟩
  let sources := s.spanSources d sp
  if sources.all (·.isSome) = true then s.AssemblesSpan u e x sp (stageSources sources)
  else s.AsksDevice u e x d sp (stageSources sources)

/-- R75: of two entries with a sequence number, the greater age (the counter minus the number, modulo 2^32) is the earlier. -/
def State.Earlier (s : State) (y x : Entry) : Prop :=
  ∃ q p, y.sequence = some q ∧ x.sequence = some p ∧ (s.orders.sequence - p).toNat < (s.orders.sequence - q).toNat

/-- R81: the byte `a` of device `d` lies in the order's range; STORE_PROFILE counts as bytes 0 to 1023 of device 0. -/
def Entry.touches (x : Entry) (d : DevicePos) (a : Nat) : Prop :=
  match x.kind with
  | .read | .write | .fill =>
    x.record.position = d ∧ x.record.address.toNat ≤ a ∧ a < x.record.address.toNat + x.record.length
  | .storeProfile => d = 0 ∧ a < 1024
  | _ => False

/-- R82: no earlier WRITE, FILL or STORE_PROFILE that overlaps the READ is WAITING or ACTIVE, and no earlier SET_GEOMETRY of its
device is WAITING, ACTIVE or HELD. -/
def State.ReadAllowed (s : State) (x : Entry) : Prop :=
  ∀ e y, s.entry? e = some y → s.Earlier y x →
    ¬ ((y.kind = .write ∨ y.kind = .fill ∨ y.kind = .storeProfile) ∧ (∃ d a, y.touches d a ∧ x.touches d a)
        ∧ (y.state = .waiting ∨ y.state = .active))
    ∧ ¬ (y.kind = .setGeometry ∧ y.record.position = x.record.position
        ∧ (y.state = .waiting ∨ y.state = .active ∨ y.state = .held))

/-- R83, R84: no earlier READ that overlaps the WRITE, FILL or STORE_PROFILE, or that is of the SET_GEOMETRY's device, is WAITING,
ACTIVE or PARKED. The other kinds of the gather queue are not held back. -/
def State.GatherAllowed (s : State) (x : Entry) : Prop :=
  ∀ e y, s.entry? e = some y → s.Earlier y x → y.kind = .read →
    (y.state = .waiting ∨ y.state = .active ∨ y.state = .parked) →
    ¬ ((x.kind = .write ∨ x.kind = .fill ∨ x.kind = .storeProfile) ∧ ∃ d a, y.touches d a ∧ x.touches d a)
    ∧ ¬ (x.kind = .setGeometry ∧ y.record.position = x.record.position)

/-- R132, R133: the page is effectively locked: a valid entry on its device whose range holds it, and below the page count of the
device, is LOCKED, or is GUARDED while the guard line is asserted. -/
def State.Locked (s : State) (d : DevicePos) (p : Nat) : Prop :=
  ∃ (i : ZoneIndex) (z : Zone), s.zones.entries[i] = some z ∧ z.device = d ∧ z.first ≤ p ∧ p ≤ z.last ∧ p < s.pageCount d
    ∧ (z.mode = .lockedZone ∨ z.mode = .guardedZone ∧ s.zones.guard = true)

/-- R110: the page is covered by a zone entry, as far as the device has it. -/
def State.Concerns (s : State) (z : Option Zone) (y : Buffer) : Prop :=
  ∃ z', z = some z' ∧ z'.device = y.device ∧ z'.first ≤ y.page ∧ y.page ≤ z'.last ∧ y.page < s.pageCount y.device

/-- R78: order `e`, at the head of the gather queue with none at its turn, leaves the queue; this is all that the start of an order
that fails its check changes, and the entry is DONE with this status, count 0 and no failure. It joins the done queue at the end of
the event (R91). -/
def State.StartFails (s u : State) (e : EntryId) (x : Entry) (status : Status) : Prop :=
  u = { s.newEvent with
        orders := { s.orders with entries := u.orders.entries },
        gather := { s.gather with queue := s.gather.queue.filter (· ≠ e) },
        startedGather := [e] }
  ∧ u.entry? e = some { x with state := .done, result := some ⟨status, 0, none⟩ }
  ∧ ∀ e', e' ≠ e → u.entry? e' = s.entry? e'

/-- R107, R110: order `e` waits in `state` for the non-FREE buffers that meet `p`: its watch holds exactly those, its progress is their
number, and the GATHERING ones among them are closed, oldest first. `turn` is the order at its turn afterwards, `x` its entry
before. -/
def State.TakesWatch (s u : State) (e : EntryId) (x : Entry) (state : OrderState) (turn : Option Turn) (p : Buffer → Bool) : Prop :=
  u = { s.newEvent with
        orders := { s.orders with entries := u.orders.entries },
        gather := ⟨s.gather.queue.filter (· ≠ e), turn⟩,
        pool := { s.pool with buffers := u.pool.buffers },
        channels := u.channels,
        startedGather := [e] }
  ∧ s.ClosesGathering u p
  ∧ (∃ w : List BufferId, u.entry? e = some { x with state := state, watch := w, progress := w.length } ∧ w.Nodup
      ∧ ∀ b, b ∈ w ↔ ∃ y, s.buffer? b = some y ∧ p y = true)
  ∧ ∀ e', e' ≠ e → u.entry? e' = s.entry? e'

/-- R31: the record of a device that has entered WAKING with the geometry `g`. -/
def DeviceRecord.wakes (r : DeviceRecord) (g : Geometry) : DeviceRecord :=
  { r with state := .waking, wakeLimit := some g.cycleTimeout, cycleTimer := none, pollTimer := false, noAnswer := 0
           confirming := false }

/-- R40, R152: `u` is `s` after the geometry of position `d` became `g`: the device is lost to the part, wakes, or goes on. -/
def State.GeometryApplied (s u : State) (d : DevicePos) (g : Option Geometry) : Prop :=
  (∀ d' : DevicePos, u.loader.geometry[d'] = if d' = d then g else s.loader.geometry[d'])
  ∧ (∀ d', d' ≠ d → u.device d' = s.device d')
  ∧ (∀ c, c ≠ channelOf d → u.channel c = s.channel c)
  ∧ (match g with
    | none =>
      if (s.loader.geometry[d]).isSome = true then
        u.device d = { s.device d with state := .absent, wakeLimit := none, cycleTimer := none, pollTimer := false
                                       noAnswer := 0, confirming := false }
        ∧ u.channel (channelOf d) = { s.channel (channelOf d) with
            waiting := (s.channel (channelOf d)).waiting.filter fun i => i.device ≠ d ∨ i.work.isRevive,
            frame := (s.channel (channelOf d)).frame.map fun f =>
              { f with dropped := f.dropped || (f.device = d && (match f.content with
                  | .ask (.revive _) => false
                  | _ => true)) } }
      else u.device d = s.device d ∧ u.channel (channelOf d) = s.channel (channelOf d)
    | some g =>
      if (s.loader.geometry[d]).isSome = false ∨ (s.device d).state = .offline then
        u.device d = (s.device d).wakes g
        ∧ u.channel (channelOf d) = { s.channel (channelOf d) with
            waiting := (s.channel (channelOf d)).waiting ++ [⟨d, .ask .wake, s.event⟩] }
      else
        u.device d = (if (s.device d).state = .waking then { s.device d with wakeLimit := some g.cycleTimeout } else s.device d)
        ∧ u.channel (channelOf d) = s.channel (channelOf d))

/-- R151: a new geometry fits its position: within its address width, and for device 0 present, at least 1024 bytes, of the boot
width. -/
def State.GeometryFits (s : State) (d : DevicePos) : Option Geometry → Prop
  | none => d ≠ 0
  | some g => (g.width = .three ∨ g.pageSize.bytes * g.pageCount ≤ 65536)
      ∧ (d = 0 → 1024 ≤ g.pageSize.bytes * g.pageCount ∧ g.width = s.loader.bootWidth)

/-- R145: where the copies of the profile begin. -/
def CopyId.start : CopyId → Nat
  | .a => 0
  | .b => 512

/-- R153: the target copy: the one known invalid, A where both are; of two valid ones that of the lower generation, B where they are
equal. -/
def Loader.targets (l : Loader) (k : CopyId) : Prop :=
  match l.copyA, l.copyB with
  | none, _ => k = .a
  | some _, none => k = .b
  | some a, some b => k = if a.toNat < b.toNat then .a else .b

/-- R110: the buffer's page holds bytes of the copy. -/
def State.holdsCopy (s : State) (k : CopyId) (y : Buffer) : Bool :=
  y.device = 0 && decide (y.page * s.pageSize 0 < k.start + 256) && decide (k.start < y.page * s.pageSize 0 + s.pageSize 0)

/-- R119: buffer `b` of the page holds place `off` valid, with this byte. -/
def State.BufferHolds (s : State) (b : BufferId) (d : DevicePos) (page off : Nat) (v : Byte) : Prop :=
  ∃ y, s.buffer? b = some y ∧ y.device = d ∧ y.page = page ∧ y.image[off]? = some (some v)

/-- R24: `v` is `s` in a new event, with the channel's frame at its end. -/
def State.FrameOver (s : State) (c : ChannelId) (v : State) : Prop :=
  v = { s.newEvent with channels := v.channels }
  ∧ ∀ c', v.channel c' = if c' = c then { s.channel c' with frame := none } else s.channel c'

/-- `u` is `s` with the record of one device replaced. -/
def State.DeviceBecomes (s u : State) (d : DevicePos) (r : DeviceRecord) : Prop :=
  u = { s with devices := u.devices } ∧ u.device d = r ∧ ∀ d', d' ≠ d → u.device d' = s.device d'

/-- R41: `u` is `s` with work queued for a device, as old as this event. -/
def State.QueuesWork (s u : State) (d : DevicePos) (w : Work) : Prop :=
  u = { s with channels := u.channels }
  ∧ ∀ c, u.channel c = if c = channelOf d then
      { s.channel c with waiting := (s.channel c).waiting ++ [⟨d, w, s.event⟩] } else s.channel c

/-- `u` is `s` with one non-FREE buffer replaced. -/
def State.BufferBecomes (s u : State) (b : BufferId) (y : Buffer) : Prop :=
  u = { s with pool := { s.pool with buffers := u.pool.buffers } } ∧ u.buffer? b = some y
  ∧ ∀ b', b' ≠ b → u.buffer? b' = s.buffer? b'

/-- R44, R60: `u` is `s` after an attempt of buffer `b`, whose record was `y`, has failed with this cause: the device's failed attempts
count grows and stops at FFFFh; below three attempts a program start is queued, else the buffer ends in failure. -/
def State.AttemptFails (s u : State) (b : BufferId) (y : Buffer) (cause : Cause) : Prop :=
  ∃ v w : State,
    s.DeviceBecomes v y.device { s.device y.device with
      failedAttempts := BitVec.ofNat 16 (min 65535 ((s.device y.device).failedAttempts.toNat + 1)) }
    ∧ (if y.attempts < 3 then
        v.BufferBecomes w b { y with cause := some cause, state := .programming } ∧ w.QueuesWork u y.device (.programStart b)
      else v.BufferBecomes w b { y with cause := some cause } ∧ u = w.endBuffer b (some cause))

/-- R62: `u` is `s` after buffer `b` of device `d` ended in success. -/
def State.Succeeds (s u : State) (b : BufferId) (d : DevicePos) : Prop :=
  ∃ v : State, s.DeviceBecomes v d { s.device d with pagesProgrammed := (s.device d).pagesProgrammed + 1 }
    ∧ u = v.endBuffer b none

/-- R39, R147: `u` is `s` after device `d` entered IDLE: its timers are off, a waiting wake ask is withdrawn, the reads on its deferred
read list join the ready set; in the boot wake the read of copy A is queued. -/
def State.EntersIdle (s u : State) (d : DevicePos) : Prop :=
  u = { s with devices := u.devices, channels := u.channels, reader := u.reader, loader := u.loader }
  ∧ u.device d = { s.device d with state := .idle, wakeLimit := none, cycleTimer := none, pollTimer := false, noAnswer := 0
                                   confirming := false }
  ∧ (∀ d', d' ≠ d → u.device d' = s.device d')
  ∧ u.reader = { s.reader with ready := s.reader.ready ++ s.reader.deferred[d], deferred := s.reader.deferred.set d [] }
  ∧ (let boot : Bool := d = 0 && s.loader.phase = some .wake0
     u.loader = { s.loader with phase := if boot then some .readA else s.loader.phase }
     ∧ ∀ c, u.channel c = if c = channelOf d then
        { s.channel c with
          waiting := (s.channel c).waiting.filter (fun i => i.device ≠ d ∨ i.work ≠ .ask .wake)
            ++ (if boot then [⟨0, .copyRead .a, s.event⟩] else []) }
       else s.channel c)

/-- R37: `u` is `s` after a no-answer of device `d`: the third in a row takes it OFFLINE, another leaves it with the record `r`, one
more counted. -/
def State.NoAnswer (s u : State) (d : DevicePos) (r : DeviceRecord) : Prop :=
  if (s.device d).noAnswer < 2 then s.DeviceBecomes u d { r with noAnswer := (s.device d).noAnswer + 1 }
  else u = s.goOffline d .offline

/-- R26: the marker of a good answer. -/
def goodAnswer (status : Byte) : Prop := status.extractLsb' 4 4 = 0b1010#4

/-- R108: what a FLUSH of this scope takes out of the failure list, and what it then reports. -/
def State.flushTakes (s : State) (x : Entry) : Result :=
  let taken := s.pool.failures.filter fun f => x.record.device = 15 ∨ x.record.position = f.device
  ⟨if taken = [] then .ok else .lateFailures,
   BitVec.ofNat 32 (taken.length + 65536 * (if x.record.device = 15 then s.pool.dropped.toNat else 0)), taken.head?⟩

/-! ### Words on the host bus -/

/-- R125, R157: the words of a write carry these bytes, the first in byte `host` mod 4 of the first word, and the byte enables are
set for them alone. -/
def CarriesBytes (out : List (Word × BitVec 4)) (host : Nat) (bytes : List Byte) : Prop :=
  out.length = (host % 4 + bytes.length + 3) / 4
  ∧ ∀ k < 4 * out.length, ∃ w, out[k / 4]? = some w
      ∧ (w.2.getLsbD (k % 4) = true ↔ host % 4 ≤ k ∧ k < host % 4 + bytes.length)
      ∧ (host % 4 ≤ k → k < host % 4 + bytes.length → bytes[k - host % 4]? = some (w.1.extractLsb' (8 * (k % 4)) 8))

/-! ### Orders that end inside an event -/

/-- R91: of the orders that end inside an event, those that join the done queue at once: the ones that an engine did not start in
this very event. -/
def State.joinNow (s : State) (l : List EntryId) : List EntryId := l.filter fun e => e ∉ s.startedGather ∧ e ∉ s.startedRead

/-- R155: the Loader after the end of an order that carries this store job, if it carries one. -/
def Loader.storeOver (l : Loader) (store : Option StoreJob) (failedPages : Nat) : Loader :=
  match store with
  | none => l
  | some j =>
    let known : Option (BitVec 32) := if failedPages = 0 then some j.generation else none
    { l with
      copyA := if j.target = .a then known else l.copyA
      copyB := if j.target = .b then known else l.copyB
      inUse := if failedPages = 0 then some j.target else l.inUse
      generation := if failedPages = 0 then j.generation else l.generation }

/-! ### Takes and grants on a channel -/

/-- R51: a byte inside the buffer's span is not valid. -/
def Buffer.hasHole (y : Buffer) : Prop :=
  ∃ (i k j : Nat) (v w : Byte), i < k ∧ k < j ∧ y.image[i]? = some (some v) ∧ y.image[k]? = some none ∧ y.image[j]? = some (some w)

/-- R51: the span of the buffer begins at place `lo` of the page and has `n` bytes. -/
def Buffer.spanIs (y : Buffer) (lo n : Nat) : Prop :=
  0 < n ∧ (∃ v, y.image[lo]? = some (some v)) ∧ (∃ v, y.image[lo + n - 1]? = some (some v))
  ∧ ∀ (i : Nat) v, y.image[i]? = some (some v) → lo ≤ i ∧ i < lo + n

/-- R48: the buffer may be taken: CLOSED, its device IDLE, the device's program slot empty. -/
def State.MayTake (s : State) (b : BufferId) : Prop :=
  ∃ y, s.buffer? b = some y ∧ y.state = .closed ∧ (s.device y.device).state = .idle ∧ (s.device y.device).slot = none

/-- R50, R51: `u` is `s` after the take of buffer `b`, whose record was `y`: on a locked page it ends PROTECTED with no frame and
its slot stays empty; else it leaves the program queue for the device's program slot, and a gap fill is queued where its span
has holes, else its program start. -/
def State.Takes (s u : State) (b : BufferId) (y : Buffer) : Prop :=
  (s.Locked y.device y.page → u = s.endBuffer b (some .protection))
  ∧ (¬ s.Locked y.device y.page →
      ∃ (v : State) (holes : Bool), (holes = true ↔ y.hasHole)
        ∧ v = { s with pool := { s.pool with buffers := v.pool.buffers }, devices := v.devices, channels := v.channels }
        ∧ v.buffer? b = some { y with state := if holes then .filling else .programming }
        ∧ (∀ b', b' ≠ b → v.buffer? b' = s.buffer? b')
        ∧ (∀ d, v.device d = if d = y.device then { s.device d with slot := some b } else s.device d)
        ∧ (∀ c, v.channel c = if c = channelOf y.device then
            { s.channel c with queue := (s.channel c).queue.filter (· ≠ b) } else s.channel c)
        ∧ v.QueuesWork u y.device (if holes then .fillRead b else .programStart b))

/-- R42: the arbiter may act on the item. -/
def State.MayGrant (s : State) (i : WorkItem) : Prop :=
  let free : Prop := (s.device i.device).state = .idle ∧ (s.device i.device).confirming = false
  match i.work with
  | .ask _ => True
  | .hostRead _ => free ∨ (s.device i.device).state = .cycling
  | .copyRead _ | .fillRead _ | .verifyRead _ | .programStart _ => free

/-- R41: the item comes no later than another: by class, then the older event, then select order from the one after the last
granted. -/
def comesFirst (last : Select) (i j : WorkItem) : Prop :=
  let rank : Work → Nat := fun
    | .ask _ => 1
    | .hostRead _ | .copyRead _ => 2
    | .fillRead _ | .verifyRead _ => 3
    | .programStart _ => 4
  let turn (d : DevicePos) : Int := ((selectOf d).val - last.val - 1) % 4
  rank i.work < rank j.work
  ∨ rank i.work = rank j.work ∧ (i.since < j.since ∨ i.since = j.since ∧ turn i.device ≤ turn j.device)

/-- R24, R41: `u` is `s` after item `i` has been granted on channel `c` and a frame with this content has begun to its device. -/
def State.BeginsFrame (s u : State) (c : ChannelId) (i : WorkItem) (content : FrameContent) : Prop :=
  u = { s with channels := u.channels }
  ∧ ∀ c', u.channel c' = if c' = c then
      { s.channel c with waiting := (s.channel c).waiting.erase i, lastGranted := selectOf i.device
                         frame := some ⟨i.device, content, s.addressWidth i.device, false⟩ }
    else s.channel c'

/-- R41: `u` is `s` after item `i` has left the waiting work of channel `c`; the last granted select is then `last`. -/
def State.RemovesItem (s u : State) (c : ChannelId) (i : WorkItem) (last : Select) : Prop :=
  u = { s with channels := u.channels }
  ∧ ∀ c', u.channel c' = if c' = c then
      { s.channel c with waiting := (s.channel c).waiting.erase i, lastGranted := last } else s.channel c'

/-- R41 to R43, R52, R54, R58, R121, R148: `u` is `s` after the arbiter of the free channel `c` has acted on item `i`. -/
def State.ActsOnItem (s u : State) (c : ChannelId) (i : WorkItem) : Prop :=
  match i.work with
  | .ask (.revive e) =>
    if (s.device i.device).state = .offline then s.BeginsFrame u c i (.ask (.revive e))
    else
      ∃ v, s.RemovesItem v c i (selectOf i.device)
        ∧ ∀ x, s.entry? e = some x → e ∉ s.startedGather → e ∉ s.startedRead →
            v.EndsOrder u e x ⟨if (s.device i.device).state = .absent then .noDevice else .ok, 0, none⟩
            ∧ u = { v with orders := u.orders }
  | .ask p => s.BeginsFrame u c i (.ask p)
  | .hostRead e =>
    if (s.device i.device).state = .cycling then
      ∀ x, s.entry? e = some x → ∃ v, s.RemovesItem v c i (s.channel c).lastGranted ∧ v.ParksRead u e x i.device
    else
      ∀ a x, s.reader.active = some a → s.entry? a.entry = some x → x.kind = .read → a.staging.length = a.span.length →
        ∀ missing : Nat → Prop,
          (∀ k : Nat, missing k ↔ (s.spanSources i.device a.span)[k]? = some none
            ∧ ∃ m, a.staging[k]? = some m ∧ ∀ b, m ≠ Staged.fromDevice b) →
          (∀ lo hi, missing lo → missing hi → (∀ k, missing k → lo ≤ k ∧ k ≤ hi) →
            s.BeginsFrame u c i (.stream (.hostRead a.entry) (a.span.address + lo) (hi + 1 - lo)))
          ∧ ((∀ k, ¬ missing k) →
              ∃ (v : State) (staging : List Staged), s.RemovesItem v c i (selectOf i.device)
                ∧ staging.length = a.span.length
                ∧ (∀ (k : Nat) o, (s.spanSources i.device a.span)[k]? = some o →
                    staging[k]? = match o with | some b => some (Staged.fromBuffer b) | none => a.staging[k]?)
                ∧ v.AssemblesSpan u a.entry x a.span staging)
  | .copyRead k => s.BeginsFrame u c i (.stream (.copyRead k) k.start 256)
  | .fillRead b => ∀ y lo n, s.buffer? b = some y → y.spanIs lo n →
      s.BeginsFrame u c i (.stream (.fillRead b) (y.page * s.pageSize y.device + lo) n)
  | .verifyRead b => ∀ y lo n, s.buffer? b = some y → y.spanIs lo n →
      s.BeginsFrame u c i (.stream (.verifyRead b) (y.page * s.pageSize y.device + lo) n)
  | .programStart b => ∀ y lo n, s.buffer? b = some y → y.spanIs lo n →
      ∃ (v : State) (data : List Byte), s.BufferBecomes v b { y with attempts := y.attempts + 1 }
        ∧ data.length = n ∧ (∀ (k : Nat) v, k < n → y.image[lo + k]? = some (some v) → data[k]? = some v)
        ∧ v.BeginsFrame u c i (.programStart b (y.page * s.pageSize y.device + lo) data)

/-! ### Spans on their way into buffers -/

/-- R9, R10, R11, R100 to R102: `u` is `s` after the span in hand of the order at its turn has been merged into the GATHERING buffer
`b`, whose record was `y`: its bytes, linger expiry, marks and contributor list; the order's progress, touched and joined list; the
closings (a full page, then what the last span closes, each once); and with the last span the end of the gather. -/
def State.MergesSpan (s u : State) (t : Turn) (x : Entry) (sp : Span) (bytes : List Byte) (b : BufferId) (y : Buffer) : Prop :=
  ∃ (v : State) (y' : Buffer) (full last : Bool) (touched joined atEnd : List BufferId),
    y' = { y with
        image := mergeBytes y.image (sp.address % s.pageSize x.position) bytes
        linger := if s.pool.linger = 0 then none else some s.pool.linger
        posted := y.posted || !x.durable
        verify := y'.verify
        contributors := if x.durable = true ∧ t.entry ∉ y.contributors then y.contributors ++ [t.entry] else y.contributors }
    ∧ (y'.verify = true ↔ y.verify = true ∨ x.verifies = true ∨ y.device = 0 ∧ y.page * s.pageSize y.device < 1024)
    ∧ (full = true ↔ ∀ i : Nat, y'.image[i]? ≠ some none)
    ∧ (last = true ↔ x.total ≤ x.progress + sp.length)
    ∧ touched = (if b ∈ t.touched then t.touched else t.touched ++ [b])
    ∧ joined = (if x.durable = true ∧ b ∉ t.joined then t.joined ++ [b] else t.joined)
    ∧ atEnd = (if last = false then [] else if x.durable = true then joined else if s.pool.linger = 0 then touched else [])
    ∧ s.BufferBecomes v b y'
    ∧ v.ClosesListed u (if full then b :: atEnd.filter (· ≠ b) else atEnd)
    ∧ u = { s with
        orders := { u.orders with sequence := s.orders.sequence }
        gather := { s.gather with turn := u.gather.turn }
        pool := { s.pool with buffers := u.pool.buffers }
        channels := u.channels }
    ∧ (∀ e, e ≠ t.entry → u.entry? e = s.entry? e)
    ∧ u.gather.turn = (if last then none
        else some { t with span := none, bytes := none, touched := touched, joined := joined })
    ∧ (if last = false then
        u.entry? t.entry = some { x with progress := x.progress + sp.length } ∧ u.orders.done = s.orders.done
      else if x.durable = true then
        u.entry? t.entry = some { x with state := .held, progress := ((List.finRange 16).filter fun b' =>
          match u.buffer? b' with | some z => t.entry ∈ z.contributors | none => false).length }
        ∧ u.orders.done = s.orders.done
      else
        u.entry? t.entry = some { x with progress := x.progress + sp.length, state := .done
                                         result := some ⟨.ok, BitVec.ofNat 32 x.total, none⟩ }
        ∧ u.orders.done = s.orders.done ++ s.joinNow [t.entry])

/-- R7: `v` is `s` after the standing request for this page has been served with the FREE record `b`: the record is GATHERING with
the values of R7's table, `y`. -/
def State.AllocatesBuffer (s v : State) (r : AllocRequest) (b : BufferId) (y : Buffer) : Prop :=
  y = { state := .gathering, device := r.device, page := r.page, sequence := s.pool.sequence
        image := List.replicate (s.pageSize r.device) none, contributors := [], posted := false, verify := false
        attempts := 0, linger := none, cause := none }
  ∧ v = { s with pool := { s.pool with buffers := v.pool.buffers, sequence := s.pool.sequence + 1, request := none } }
  ∧ v.buffer? b = some y ∧ ∀ b', b' ≠ b → v.buffer? b' = s.buffer? b'

/-! ### The loss of a device -/

/-- R38, steps 1 and 2, R61, R64: `v` is `s` after device `d` has entered OFFLINE: its timers are off, an attempt of its slot holder
that was in progress is counted as failed, its allocation request is withdrawn, its waiting work but the REVIVE asks is withdrawn,
and a frame in progress to it, but that of a REVIVE (notes/assumptions/25.md), is not used. -/
structure State.GoesOffline (s v : State) (d : DevicePos) : Prop where
  frame : v = { s with devices := v.devices, channels := v.channels, pool := { s.pool with request := v.pool.request } }
  device : ∀ attempt : Bool,
    (attempt = true ↔ ∃ b y, (s.device d).slot = some b ∧ s.buffer? b = some y
      ∧ (y.state = .verifying
        ∨ y.state = .programming ∧ ∀ i ∈ (s.channel (channelOf y.device)).waiting, i.work ≠ .programStart b)) →
    v.device d = { s.device d with
      state := .offline, wakeLimit := none, cycleTimer := none, pollTimer := false, noAnswer := 0, confirming := false
      failedAttempts := if attempt then BitVec.ofNat 16 (min 65535 ((s.device d).failedAttempts.toNat + 1))
        else (s.device d).failedAttempts }
  otherDevices : ∀ d', d' ≠ d → v.device d' = s.device d'
  request : ∀ r, v.pool.request = some r ↔ s.pool.request = some r ∧ r.device ≠ d
  channel : ∀ c, v.channel c = if c = channelOf d then
      { s.channel c with
        waiting := (s.channel c).waiting.filter fun i => i.device ≠ d ∨ i.work.isRevive
        frame := (s.channel c).frame.map fun f => { f with dropped := f.dropped || (f.device = d && (match f.content with
          | .ask (.revive _) => false
          | _ => true)) } }
    else s.channel c

/-- R38, step 3, R64, R65: the buffers of a lost device in the order they end: the slot holder, the CLOSED ones in program queue
order, the GATHERING ones oldest first. -/
def State.LosesBuffers (s : State) (d : DevicePos) (l : List BufferId) : Prop :=
  ∃ gathering, l = (s.device d).slot.toList
      ++ (s.channel (channelOf d)).queue.filter (fun b => match s.buffer? b with | some y => y.device = d | none => false)
      ++ gathering
    ∧ gathering.Nodup ∧ gathering.Pairwise (fun b b' => s.bufferAge b' ≤ s.bufferAge b)
    ∧ ∀ b, b ∈ gathering ↔ ∃ y, s.buffer? b = some y ∧ y.state = .gathering ∧ y.device = d

/-- R127: `u` is `s` after the reads that still need device `d` have ended DEVICE_OFFLINE with the bytes delivered: the active read,
if it is not DELIVERING, then the PARKED ones by ascending sequence. Their waiting deliveries are withdrawn, the result of one on
the bus is not used. -/
def State.EndsReads (s u : State) (d : DevicePos) : Prop :=
  ∃ active parked : List EntryId,
    (active = match s.reader.active with
      | some a => (match s.entry? a.entry with
        | some x => if x.position = d ∧ x.state ≠ .delivering then [a.entry] else []
        | none => [])
      | none => [])
    ∧ parked.Perm (s.reader.deferred[d] ++ s.reader.ready.filter fun e =>
        match s.entry? e with | some x => x.position = d | none => false)
    ∧ parked.Pairwise (fun e e' => s.orderAge e' ≤ s.orderAge e)
    ∧ ((∀ e ∈ parked, s.entry? e ≠ none) → (active ++ parked).Nodup →
        (∀ e, u.entry? e = if e ∈ active ++ parked then (s.entry? e).map fun x =>
            { x with state := .done, result := some ⟨.deviceOffline, BitVec.ofNat 32 x.progress, none⟩ } else s.entry? e)
        ∧ u.orders.done = s.orders.done ++ s.joinNow (active ++ parked)
        ∧ u = { s with
            orders := { s.orders with entries := u.orders.entries, done := u.orders.done }
            reader := { s.reader with
              active := if active = [] then s.reader.active else none
              deferred := s.reader.deferred.set d []
              ready := s.reader.ready.filter (· ∉ parked) }
            host := { s.host with
              requests := s.host.requests.filter fun r => ∀ e ∈ active ++ parked, r.job ≠ .readData e
              engine := s.host.engine.map fun x =>
                if ∃ e ∈ active ++ parked, x.job = .readData e then { x with givenUp := true } else x } })

/-- R105, R112, R155: `u` is `s` after the WRITE, FILL or STORE_PROFILE that gathers for device `d` has ended DEVICE_OFFLINE with the
bytes merged as count and has given up its turn; a barrier order in its wait, and an order of another device, go on. -/
def State.EndsGather (s u : State) (d : DevicePos) : Prop :=
  ((∀ t x, s.gather.turn = some t → s.entry? t.entry = some x → t.work = .barrier ∨ x.position ≠ d) → u = s)
  ∧ ∀ t x, s.gather.turn = some t → s.entry? t.entry = some x → t.work ≠ .barrier → x.position = d →
    u.entry? t.entry = some { x with
      state := .done, result := some ⟨.deviceOffline, BitVec.ofNat 32 x.progress, none⟩ }
    ∧ (∀ e, e ≠ t.entry → u.entry? e = s.entry? e)
    ∧ u.orders.done = s.orders.done ++ s.joinNow [t.entry]
    ∧ (∀ b, u.buffer? b = (s.buffer? b).map fun y => { y with contributors := y.contributors.filter (· ≠ t.entry) })
    ∧ u = { s with
        orders := { s.orders with entries := u.orders.entries, done := u.orders.done }
        pool := { s.pool with buffers := u.pool.buffers }
        gather := { s.gather with turn := none }
        loader := s.loader.storeOver x.store 1
        host := { s.host with
          requests := s.host.requests.filter fun r => r.job ≠ .writeData t.entry
          engine := s.host.engine.map fun h => if h.job = .writeData t.entry then { h with givenUp := true } else h } }

/-! ### The inside of an event -/

/-- `t` is `s` after `n` follow-on actions, one after another. -/
def State.RunsTo (s : State) : Nat → State → Prop
  | 0, t => s = t
  | n + 1, t => ∃ v, s.advance? = some v ∧ v.RunsTo n t

/-- R91: the orders of the list that are DONE. -/
def State.endedOf (s : State) (l : List EntryId) : List EntryId :=
  l.filter fun e => match s.entry? e with
    | some x => x.state = .done
    | none => false

/-- R78, R96: `u` is `s` after order `e`, whose entry was `x`, has left the gather queue and become ACTIVE, the order at its turn
with this work. -/
def State.HeadTakesTurn (s u : State) (e : EntryId) (x : Entry) (work : TurnWork) : Prop :=
  u = { s with
        orders := { s.orders with entries := u.orders.entries }
        gather := ⟨s.gather.queue.filter (· ≠ e), some ⟨e, work, none, none, [], []⟩⟩
        startedGather := s.startedGather ++ [e] }
  ∧ u.entry? e = some { x with state := .active }
  ∧ ∀ e', e' ≠ e → u.entry? e' = s.entry? e'

/-- R78, R91, R96: `u` is `s` after order `e` has left the gather queue and gone to DONE with this result, its entry but for state
and result being `x`; it joins the done queue at the end of the event. -/
def State.HeadEnds (s u : State) (e : EntryId) (x : Entry) (r : Result) : Prop :=
  u = { s with
        orders := { s.orders with entries := u.orders.entries }
        gather := { s.gather with queue := s.gather.queue.filter (· ≠ e) }
        startedGather := s.startedGather ++ [e] }
  ∧ u.entry? e = some { x with state := .done, result := some r }
  ∧ ∀ e', e' ≠ e → u.entry? e' = s.entry? e'

/-- R107, R110: `u` is `s` after order `e` has left the gather queue to wait in `state` for the non-FREE buffers that meet `p`: its
watch holds exactly those, and the GATHERING ones among them are closed, oldest first. -/
def State.HeadWatches (s u : State) (e : EntryId) (x : Entry) (state : OrderState) (turn : Option Turn) (p : Buffer → Bool) : Prop :=
  u = { s with
        orders := { s.orders with entries := u.orders.entries }
        gather := ⟨s.gather.queue.filter (· ≠ e), turn⟩
        pool := { s.pool with buffers := u.pool.buffers }
        channels := u.channels
        startedGather := s.startedGather ++ [e] }
  ∧ s.ClosesGathering u p
  ∧ (∃ w : List BufferId, u.entry? e = some { x with state := state, watch := w, progress := w.length } ∧ w.Nodup
      ∧ ∀ b, b ∈ w ↔ ∃ y, s.buffer? b = some y ∧ p y = true)
  ∧ ∀ e', e' ≠ e → u.entry? e' = s.entry? e'

/-- R97: the start of a WRITE or FILL. -/
def State.WriteStarts (s u : State) (e : EntryId) (x : Entry) (work : TurnWork) : Prop :=
  let d := x.record.position
  let a := x.record.address.toNat
  let n := x.record.length
  let locked : Prop := ∃ p, a / s.pageSize d ≤ p ∧ p ≤ (a + n - 1) / s.pageSize d ∧ s.Locked d p
  if (s.device d).state = .absent then s.HeadEnds u e x ⟨.noDevice, 0, none⟩
  else if (s.device d).state = .offline then s.HeadEnds u e x ⟨.deviceOffline, 0, none⟩
  else if s.pageSize d * s.pageCount d < a + n then s.HeadEnds u e x ⟨.badRange, 0, none⟩
  else if d = 0 ∧ a < 1024 then s.HeadEnds u e x ⟨.reservedArea, 0, none⟩
  else (locked → s.HeadEnds u e x ⟨.protection, 0, none⟩) ∧ (¬ locked → s.HeadTakesTurn u e x work)

/-- R107, R108: the start of a FLUSH. -/
def State.FlushStarts (s u : State) (e : EntryId) (x : Entry) : Prop :=
  let scope : Buffer → Bool := fun y => x.record.device = 15 || x.record.position = y.device
  if x.record.device ≠ 15 ∧ (s.device x.record.position).state = .absent then s.HeadEnds u e x ⟨.noDevice, 0, none⟩
  else if ∀ b y, s.buffer? b = some y → scope y = false then
    ∃ v, s.HeadEnds v e x (s.flushTakes x)
      ∧ u = { v with pool := { s.pool with
          failures := s.pool.failures.filter fun f => !(x.record.device = 15 || x.record.position = f.device)
          dropped := if x.record.device = 15 then 0 else s.pool.dropped } }
  else s.HeadWatches u e x .held none scope

/-- R138, R139: the start of a SET_ZONE whose payload is the entry `new`. -/
def State.SetZoneStarts (s u : State) (e : EntryId) (x : Entry) (new : Option Zone) : Prop :=
  let old := s.zones.entries[x.record.zoneIndex]
  let guarded : Prop := s.zones.guard = true ∧ ∃ z, old = some z ∧ z.mode = .guardedZone
  let badRange : Prop := ∃ z, new = some z ∧ s.pageCount z.device ≤ z.last
  let concerned : Prop := ∃ b y, s.buffer? b = some y ∧ (s.Concerns old y ∨ s.Concerns new y)
  (guarded → s.HeadEnds u e x ⟨.protection, 0, none⟩)
  ∧ (¬ guarded → badRange → s.HeadEnds u e x ⟨.badRange, 0, none⟩)
  ∧ (¬ guarded → ¬ badRange → ¬ concerned →
      ∃ v, s.HeadEnds v e { x with watch := [], progress := 0 } ⟨.ok, 0, none⟩
        ∧ u = { v with zones := { s.zones with entries := s.zones.entries.set x.record.zoneIndex new } })
  ∧ (¬ guarded → ¬ badRange → concerned →
      ∃ p : Buffer → Bool, (∀ y, p y = true ↔ s.Concerns old y ∨ s.Concerns new y)
        ∧ s.HeadWatches u e x .held (some ⟨e, .barrier, none, none, [], []⟩) p)

/-- R151, R152: the start of a SET_GEOMETRY whose payload is the geometry `new`. -/
def State.SetGeometryStarts (s u : State) (e : EntryId) (x : Entry) (new : Option Geometry) : Prop :=
  let d := x.record.position
  (¬ s.GeometryFits d new → s.HeadEnds u e x ⟨.badOrder, 0, none⟩)
  ∧ (s.GeometryFits d new → (∀ b y, s.buffer? b = some y → y.device ≠ d) →
      ∃ v, s.HeadEnds v e { x with watch := [], progress := 0 } ⟨.ok, 0, none⟩
        ∧ s.GeometryApplied u d new
        ∧ u = { v with
            loader := { s.loader with geometry := u.loader.geometry }, devices := u.devices, channels := u.channels })
  ∧ (s.GeometryFits d new → (∃ b y, s.buffer? b = some y ∧ y.device = d) →
      s.HeadWatches u e x .held (some ⟨e, .barrier, none, none, [], []⟩) fun y => y.device = d)

/-- R153, R154: the start of a STORE_PROFILE whose target copy is `k`; with no buffer to wait for it comes to its build at once. -/
def State.StoreProfileStarts (s u : State) (e : EntryId) (x : Entry) (k : CopyId) : Prop :=
  if s.zones.guard = true then s.HeadEnds u e x ⟨.protection, 0, none⟩
  else if s.loader.generation = 0xFFFFFFFF#32 then s.HeadEnds u e x ⟨.profileFull, 0, none⟩
  else if ∃ b, ∃ y, s.buffer? b = some y ∧ s.holdsCopy k y = true then
    s.HeadWatches u e { x with store := some ⟨k, 0⟩ } .active (some ⟨e, .barrier, none, none, [], []⟩) (s.holdsCopy k)
  else if (s.device 0).state = .offline then
    s.HeadEnds u e { x with store := some ⟨k, 0⟩, watch := [], progress := 0 } ⟨.deviceOffline, 0, none⟩
  else
    s.HeadTakesTurn u e { x with store := some ⟨k, s.loader.generation + 1⟩, watch := [], progress := 0 }
      (.profileRecord (profileBytes (s.loader.generation + 1) s.loader.geometry s.zones.entries))

/-- R78, R96: `u` is `s` after order `e`, the head of the gather queue, whose entry was `x`, has started, by its kind. -/
def State.HeadStarts (s u : State) (e : EntryId) (x : Entry) : Prop :=
  (x.kind = .write → s.WriteStarts u e x .hostData)
  ∧ (x.kind = .fill → s.WriteStarts u e x (.pattern x.record.selector))
  ∧ (x.kind = .flush → s.FlushStarts u e x)
  ∧ (x.kind = .setZone → ∀ new, x.record.zone = some new → s.SetZoneStarts u e x new)
  ∧ (x.kind = .setGeometry → ∀ new, x.record.geometry = some new → s.SetGeometryStarts u e x new)
  ∧ (x.kind = .storeProfile → ∀ k, s.loader.targets k → s.StoreProfileStarts u e x k)

/-- R116, R117: `u` is `s` after READ `e` of the waiting set, whose entry was `x`, has started: DONE with the status of the first check
that fails, joining the done queue at the end of the event, or ACTIVE with its first span taken. -/
def State.ReadStarts (s u : State) (e : EntryId) (x : Entry) : Prop :=
  ∃ v : State, v = { s with
      orders := { s.orders with entries := v.orders.entries }
      reader := { s.reader with waiting := s.reader.waiting.filter (· ≠ e) }
      startedRead := s.startedRead ++ [e] }
    ∧ (∀ e', e' ≠ e → v.entry? e' = s.entry? e')
    ∧ (let d := x.record.position
       let failing (status : Status) : Prop :=
         u = v ∧ v.entry? e = some { x with state := .done, result := some ⟨status, 0, none⟩ }
       if (s.device d).state = .absent then failing .noDevice
       else if (s.device d).state = .offline then failing .deviceOffline
       else if s.pageSize d * s.pageCount d < x.record.address.toNat + x.record.length then failing .badRange
       else v.entry? e = some { x with state := .active } ∧ v.TakesReadSpan u e { x with state := .active })

/-- R116: `u` is `s` after READ `e` of the ready set, whose entry was `x`, is ACTIVE again and has taken afresh the span it parked on. -/
def State.ReadResumes (s u : State) (e : EntryId) (x : Entry) : Prop :=
  ∃ v : State, v = { s with
      orders := { s.orders with entries := v.orders.entries }
      reader := { s.reader with ready := s.reader.ready.filter (· ≠ e) } }
    ∧ v.entry? e = some { x with state := .active } ∧ (∀ e', e' ≠ e → v.entry? e' = s.entry? e')
    ∧ v.TakesReadSpan u e { x with state := .active }

/-! ### The profile copies -/

/-- R146: the 256 bytes are a valid copy for this boot width, condition by condition, at the offsets of R188. -/
def CopyValid (boot : AddressWidth) (bytes : List Byte) : Prop :=
  let geo (d : Nat) : List Byte := bytes.drop (12 + 8 * d)
  let present (d : Nat) : Prop := byteAt (geo d) 0 = 1
  let capacity (d : Nat) : Nat := 16 * 2 ^ (byteAt (geo d) 1).toNat * (fieldAt (geo d) 2 2 + 1)
  (byteAt bytes 0 = 0x5A ∧ byteAt bytes 1 = 0x56 ∧ byteAt bytes 2 = 0x50 ∧ byteAt bytes 3 = 0x46 ∧ byteAt bytes 4 = 1)
  ∧ crc16 (bytes.take 254) = byteAt bytes 254 ++ byteAt bytes 255
  ∧ fieldAt bytes 8 4 ≠ 0
  ∧ (∀ d < 8, byteAt (geo d) 0 = 0 ∨ present d ∧ (byteAt (geo d) 1).toNat ≤ 4 ∧ byteAt (geo d) 5 ≠ 0
      ∧ (byteAt (geo d) 4 = 2 ∧ capacity d ≤ 65536 ∨ byteAt (geo d) 4 = 3))
  ∧ present 0 ∧ 1024 ≤ capacity 0 ∧ (byteAt (geo 0) 4).toNat = (match boot with | .two => 2 | .three => 3)
  ∧ ∀ i < 16, let z := bytes.drop (76 + 8 * i)
      (byteAt z 0).getLsbD 0 = false ∨ (byteAt z 1).toNat < 8 ∧ (byteAt z 6).toNat ≤ 2 ∧ fieldAt z 2 2 ≤ fieldAt z 4 2
        ∧ present (byteAt z 1).toNat ∧ fieldAt z 4 2 < fieldAt (geo (byteAt z 1).toNat) 2 2 + 1

/-- R145, R183, R188: what a valid copy gives, entry by entry. -/
def CopyGives (bytes : List Byte) (p : Profile) : Prop :=
  p.generation.toNat = fieldAt bytes 8 4
  ∧ (∀ d : DevicePos, let g := bytes.drop (12 + 8 * d.val)
      (byteAt g 0 = 0 ∧ p.geometry[d] = none)
      ∨ ∃ x, p.geometry[d] = some x ∧ byteAt g 0 = 1 ∧ x.pageSize.bytes = 16 * 2 ^ (byteAt g 1).toNat
          ∧ x.pageCount = fieldAt g 2 2 + 1 ∧ x.width.bytes = (byteAt g 4).toNat ∧ x.cycleTimeout = (byteAt g 5).toNat)
  ∧ ∀ i : ZoneIndex, let z := bytes.drop (76 + 8 * i.val)
      ((byteAt z 0).getLsbD 0 = false ∧ p.zones[i] = none)
      ∨ ∃ x, p.zones[i] = some x ∧ (byteAt z 0).getLsbD 0 = true ∧ x.device.val = (byteAt z 1).toNat
          ∧ x.first = fieldAt z 2 2 ∧ x.last = fieldAt z 4 2
          ∧ (byteAt z 6).toNat = (match x.mode with | .openZone => 0 | .lockedZone => 1 | .guardedZone => 2)

/-- R73: the table of refusals, row by row. -/
def Refused (code : Byte) (r : OrderRecord) : Prop :=
  let k := code.toNat
  let payload (i : Nat) : Nat := (r.payload.extractLsb' (8 * i) 8).toNat
  -- kind, must-be-zero bytes, flags
  (k = 0 ∨ 10 < k) ∨ r.mustBeZero ≠ 0 ∨ (if k = 2 ∨ k = 3 then r.flags.extractLsb' 2 6 ≠ 0 else r.flags ≠ 0)
  -- device
  ∨ ((k = 1 ∨ k = 2 ∨ k = 3 ∨ k = 7 ∨ k = 9) ∧ 7 < r.device.toNat)
  ∨ (k = 4 ∧ 7 < r.device.toNat ∧ r.device.toNat ≠ 15)
  -- buffer, host range, address
  ∨ ((k = 1 ∨ k = 2 ∨ k = 10) ∧ r.buffer.toNat % 4 ≠ 0)
  ∨ ((k = 1 ∨ k = 2) ∧ 0x100000000 < r.buffer.toNat + (r.lengthLess1.toNat + 1))
  ∨ (k = 10 ∧ 0x100000000 < r.buffer.toNat + 128)
  ∨ ((k = 1 ∨ k = 2 ∨ k = 3) ∧ 0x1000000 ≤ r.address.toNat)
  -- cancel ring, zone index
  ∨ (k = 5 ∧ 1 < r.selector.toNat)
  ∨ (k = 6 ∧ 15 < r.selector.toNat)
  -- zone entry
  ∨ (k = 6 ∧ r.payload.getLsbD 0 = true ∧
      (7 < payload 1 ∨ 2 < payload 6 ∨ (r.payload.extractLsb' 32 16).toNat < (r.payload.extractLsb' 16 16).toNat))
  -- geometry
  ∨ (k = 7 ∧ (1 < payload 0 ∨ (payload 0 = 1 ∧
      (4 < payload 1 ∨ (payload 4 ≠ 2 ∧ payload 4 ≠ 3) ∨ payload 5 = 0))))

end Sys2Proof.Machine
end

