-- ==== Sys2Proof/WellFormed.lean ====
section
/-! DEFINITION. Which commands are well formed: the operand checks that a command's own type does not make. Nothing
about the state of the part is checked here; a command that its state does not admit is met by its meaning. -/

namespace Sys2Proof

/-- The kind code names none of the ten kinds: 0 and 11 to 255 (R183). -/
def kindCodeUnknown (code : Byte) : Bool := code = 0 || 11 ≤ code.toNat

/-- R161: a write to IDENT or STATE, and a write without all four byte enables, is ignored. -/
def writeIgnored (register : Register) (byteEnables : BitVec 4) : Bool :=
  register = .ident || register = .state || byteEnables ≠ 0b1111#4

/-- R157: a transfer never has more than 65 words (one span of at most 256 bytes). -/
def dataEndFits : DataEnd → Bool
  | .complete words => words.length ≤ 65
  | .hostFault _ => true

/-- The operands of a command are ones the event can have. -/
def Instr.wellFormed : Instr → Bool
  | .registerWriteIgnored r _ be => writeIgnored r be
  | .masterBurstRetry taken => taken < 16            -- a burst has at most 16 words (R157), and one is not yet taken
  | .unknownKind code _ => kindCodeUnknown code
  | .writeDataReadEnd r => dataEndFits r
  | .fillReadEnd _ bytes => bytes.length ≤ 256        -- a run lies in one page (R25)
  | .verifyReadEnd _ bytes => bytes.length ≤ 256
  | .hostReadFrameEnd _ bytes => bytes.length ≤ 256
  | .copyAReadEnd bytes => bytes.length = 256         -- a profile copy (R148)
  | .copyBReadEnd bytes => bytes.length = 256
  | .linkReset .. | .hrstRelease .. | .grdChange .. | .runSet .. | .runClear .. | .intEnable ..
  | .faultIntEnable .. | .localReset .. | .localResetAtBurstEnd .. | .setupAddrWrite .. | .ntailWrite ..
  | .utailWrite .. | .cheadWrite .. | .faultWrite .. | .masterBurstComplete .. | .setupBlockReadEnd ..
  | .orderFetchHostFault .. | .read .. | .write .. | .fill .. | .flush .. | .setZone .. | .setGeometry ..
  | .storeProfile .. | .cancel .. | .revive .. | .report .. | .completionWriteEnd .. | .readDataStoreEnd ..
  | .reportStoreEnd .. | .writeStart .. | .fillStart .. | .readStart .. | .readResume .. | .flushStart ..
  | .setZoneStart .. | .setGeometryStart .. | .storeProfileStart .. | .allocationRequestServed ..
  | .lingerExpiry .. | .pageLoadEnd .. | .confirmingAskEnd .. | .pollEnd .. | .wakeAskEnd .. | .reviveAskEnd ..
  | .pollTimerExpiry .. | .wakeLimitExpiry .. | .cycleTimerExpiry .. | .durableOrderEnd .. | .flushReport ..
  | .setZoneAction .. | .setGeometryApply .. | .storeProfileBuild .. | .loadEnd .. | .drainEnd .. => true

end Sys2Proof
end

