-- ==== Sys2Proof/Certificates/Slice0/Obligations.lean ====
section
/-! DEFINITION. The statements about the ZV412: its commands one by one (what each leaves, and that nothing else is changed), the rules
the engines share, and what every step keeps. A command's own effect is a state `u`; the event then ends with `u.conclude`, or
`u.hostSide` where only the host side can follow (spec/04 R91, spec/09 R159, R174), and two statements say what that end can touch
(`EventEndFrame`, `MasterArbiterGrants`). `{ s.newEvent with … }` names every part of the state the effect may change. -/

open Sys2Proof Sys2Proof.Machine

/-! ### The machine -/

/-- One step takes the command at the front of the queue and carries it out on the state with the queue's rest. On an empty queue
the block idles: that clause is the model's own choice (notes/assumptions/5.md). -/
def Obligations.StepTakesFrontCommand : Prop :=
  (∀ (s : State) (c : Instr) (rest : List Instr), s.pending = c :: rest → step s = exec c { s with pending := rest })
  ∧ ∀ s : State, s.pending = [] → step s = .next s

/-- No command stops the block, whatever its operands and the state, and no command changes the commands that wait. -/
def Obligations.EveryCommandAnswersNext : Prop :=
  ∀ (c : Instr) (s : State), ∃ t : State, exec c s = .next t ∧ t.pending = s.pending

/-- The end of an event (`State.conclude`). It never touches the lines but INTREQ, the CONTROL bits, SETUP_ADDR, a pending reset, the
guard level, the ring configuration, heads and tails, the completion ring, the order numbering, what acceptance wrote into an entry, and
a transfer on the bus; it leaves INTREQ as R174 says. Its course: follow-on actions one after another until none is left (or the bound,
notes/assumptions/4.md), then the orders that an engine started and that are DONE join the done queue, the Gather Engine's first (R91),
then the host side. The next action is the Gather Engine's, else the Read Engine's, else a look at a program queue (R49), an arbiter's
grant, the end of the load (R150) or of a drain (R167); this order is the model's reading (notes/assumptions/4.md). With no order at its
turn the Gather Engine starts the head of the gather queue, if the conflict rules allow it (R83, R84, R96); the Read Engine, with no
active read, resumes the earliest ready read, else starts the earliest waiting one that R82 allows (R116). A look takes the first
buffer that may be taken (R48 to R51). A grant on a free channel goes to the first item the arbiter may act on (R41 to R43) and begins
its frame; that items of two commands never tie is the model's own choice (notes/assumptions/23.md), and that a host read leaves out
the bytes the device has given is its inference (notes/assumptions/9.md). So is, where a SET_GEOMETRY applied at its start makes a device ABSENT, that the frame in
progress to it is not used but for a REVIVE ask (notes/assumptions/11.md), and, where a STORE_PROFILE ends DEVICE_OFFLINE at its start,
that the copy knowledge stays (notes/assumptions/10.md). The bytes on the wires are those of R25. -/
def Obligations.EventEndFrame : Prop :=
  ∀ u : State,
    (u.conclude.pins.hrst = u.pins.hrst ∧ u.conclude.pins.grd = u.pins.grd ∧ u.conclude.pins.bw = u.pins.bw)
    ∧ (u.conclude.host.run = u.host.run ∧ u.conclude.host.intEnable = u.host.intEnable
      ∧ u.conclude.host.faultIntEnable = u.host.faultIntEnable ∧ u.conclude.host.setupAddr = u.host.setupAddr
      ∧ u.conclude.host.resetPending = u.host.resetPending)
    ∧ u.conclude.zones.guard = u.zones.guard
    ∧ (u.conclude.fetch.config = u.fetch.config ∧ u.conclude.fetch.normalHead = u.fetch.normalHead
      ∧ u.conclude.fetch.normalTail = u.fetch.normalTail ∧ u.conclude.fetch.urgentHead = u.fetch.urgentHead
      ∧ u.conclude.fetch.urgentTail = u.fetch.urgentTail)
    ∧ u.conclude.poster = u.poster
    ∧ u.conclude.orders.sequence = u.orders.sequence
    ∧ (∀ e, (u.conclude.entry? e).map Entry.identity = (u.entry? e).map Entry.identity)
    ∧ (∀ t, u.host.engine = some t → u.conclude.host.engine = some t)
    ∧ u.conclude.IntreqFollows
    ∧ (∃ (n : Nat) (w j : State), n ≤ Config.settleBound ∧ u.RunsTo n w ∧ (w.advance? = none ∨ n = Config.settleBound)
        ∧ j = { w with
            orders := { w.orders with done := w.orders.done ++ w.endedOf w.startedGather ++ w.endedOf w.startedRead }
            startedGather := [], startedRead := [] }
        ∧ u.conclude = j.hostSide ∧ u.conclude.orders = j.orders
        ∧ u.conclude.startedGather = [] ∧ u.conclude.startedRead = [])
    ∧ (∀ steps : List (Option State),
        steps = [u.gatherStep?, u.readStep?, u.takeStep? 0, u.takeStep? 1, u.grantStep? 0, u.grantStep? 1] →
        (∀ before v after, steps = before ++ some v :: after → (∀ o ∈ before, o = none) → u.advance? = some v)
        ∧ ((∀ o ∈ steps, o = none) → ∀ loads drains : Prop,
          (loads ↔ u.loader.phase = some .wakeRest ∧ u.host.part = .loading ∧ ∀ d, (u.device d).state ≠ .waking) →
          (drains ↔ u.host.part = .draining ∧ (∀ e, u.entry? e = none) ∧ (∀ b, u.buffer? b = none)
            ∧ ∀ t ring slot, u.host.engine = some t → t.job ≠ .orderFetch ring slot) →
          (loads → u.advance? = some { u with
            loader := { u.loader with phase := none }
            host := { u.host with
              part := (if u.host.run then .settingUp else .stopped), setupRequest := u.host.setupRequest || u.host.run } })
          ∧ (drains → u.advance? = some { u with host := { u.host with part := .stopped } })
          ∧ (¬ loads → ¬ drains → u.advance? = none)))
    ∧ (u.gather.turn = none →
        (u.gather.queue = [] → u.gatherStep? = none)
        ∧ ∀ e x rest, u.gather.queue = e :: rest → u.entry? e = some x → x.sequence ≠ none →
            (¬ u.GatherAllowed x → u.gatherStep? = none)
            ∧ (u.GatherAllowed x → ∃ v, u.gatherStep? = some v ∧ u.HeadStarts v e x))
    ∧ (∀ t, u.gather.turn = some t → t.span = none ∧ t.work = .barrier ∨ t.span ≠ none ∧ t.bytes = none → u.gatherStep? = none)
    ∧ (u.reader.active ≠ none → u.readStep? = none)
    ∧ (u.reader.active = none → u.reader.ready = [] →
        ((∀ e ∈ u.reader.waiting, ∀ x, u.entry? e = some x → x.sequence ≠ none ∧ ¬ u.ReadAllowed x) → u.readStep? = none)
        ∧ ∀ e x, e ∈ u.reader.waiting → u.entry? e = some x → x.kind = .read → x.sequence ≠ none → u.ReadAllowed x →
            (∀ e' ∈ u.reader.waiting, ∀ y, e' ≠ e → u.entry? e' = some y → u.ReadAllowed y → u.orderAge e' < u.orderAge e) →
            ∃ v, u.readStep? = some v ∧ u.ReadStarts v e x)
    ∧ (u.reader.active = none → ∀ e x, e ∈ u.reader.ready → u.entry? e = some x → x.kind = .read →
        (∀ e' ∈ u.reader.ready, e' ≠ e → u.orderAge e' < u.orderAge e) → ∃ v, u.readStep? = some v ∧ u.ReadResumes v e x)
    ∧ (∀ c, ((∀ b ∈ (u.channel c).queue, ¬ u.MayTake b) → u.takeStep? c = none)
        ∧ ∀ (b : BufferId) (y : Buffer) (ahead behind : List BufferId), (u.channel c).queue = ahead ++ b :: behind →
            (∀ b' ∈ ahead, ¬ u.MayTake b') → u.MayTake b → u.buffer? b = some y →
            ∃ v, u.takeStep? c = some v ∧ u.Takes v b y)
    ∧ (∀ c, ((u.channel c).frame ≠ none ∨ (∀ i ∈ (u.channel c).waiting, ¬ u.MayGrant i) → u.grantStep? c = none)
        ∧ ((u.channel c).frame = none → ∀ j ∈ (u.channel c).waiting, u.MayGrant j →
            (∀ i ∈ (u.channel c).waiting, channelOf i.device = c) →
            ∃ i ∈ (u.channel c).waiting, u.MayGrant i
              ∧ (∀ j ∈ (u.channel c).waiting, u.MayGrant j → comesFirst (u.channel c).lastGranted i j)
              ∧ ∃ v, u.grantStep? c = some v ∧ u.ActsOnItem v c i))
    ∧ ∀ (d : DevicePos) (w : AddressWidth) (dropped : Bool) (address : Nat),
        let addressed : List Byte := match w with
          | .two => [BitVec.ofNat 8 (address / 256), BitVec.ofNat 8 address]
          | .three => [BitVec.ofNat 8 (address / 65536), BitVec.ofNat 8 (address / 256), BitVec.ofNat 8 address]
        (∀ p, Frame.sent ⟨d, .ask p, w, dropped⟩ = [[0x71]])
        ∧ (∀ p n, Frame.sent ⟨d, .stream p address n, w, dropped⟩ = [0x74 :: addressed])
        ∧ ∀ b data, Frame.sent ⟨d, .programStart b address data, w, dropped⟩ = [[0x7C], 0x7A :: (addressed ++ data)]

/-- Reads of the eight registers, field by field at the bit positions of R186; while HRST is asserted the part answers none. -/
def Obligations.RegisterReads : Prop :=
  (∀ (s : State) (r : Register), s.pins.hrst = true → s.readRegister r = none)
  ∧ ∀ s : State, s.pins.hrst = false →
    s.readRegister .ident = some (0xB7#8 ++ 0x412#12 ++ 0x001#12)
    ∧ (∃ v, s.readRegister .control = some v ∧ v.getLsbD 0 = s.host.run ∧ v.getLsbD 1 = s.host.intEnable
        ∧ v.getLsbD 2 = s.host.faultIntEnable ∧ v.extractLsb' 3 29 = 0)
    ∧ (∃ v, s.readRegister .state = some v
        ∧ (v.extractLsb' 0 3).toNat = (match s.host.part with
            | .loading => 0 | .stopped => 1 | .settingUp => 2 | .running => 3 | .draining => 4 | .halted => 5)
        ∧ v.getLsbD 4 = s.zones.guard
        ∧ (v.extractLsb' 8 2).toNat = (match s.loader.inUse with | none => 0 | some .a => 1 | some .b => 2)
        ∧ (v.extractLsb' 16 6).toNat = ((List.finRange 32).filter fun e => (s.entry? e).isSome).length
        ∧ (v.extractLsb' 24 5).toNat = ((List.finRange 16).filter fun b => (s.buffer? b).isNone).length
        ∧ v.getLsbD 3 = false ∧ v.extractLsb' 5 3 = 0 ∧ v.extractLsb' 10 6 = 0 ∧ v.extractLsb' 22 2 = 0
        ∧ v.extractLsb' 29 3 = 0)
    ∧ s.readRegister .setupAddr = some s.host.setupAddr
    ∧ s.readRegister .ntail = some (BitVec.ofNat 32 s.fetch.normalTail)
    ∧ s.readRegister .utail = some (BitVec.ofNat 32 s.fetch.urgentTail)
    ∧ s.readRegister .chead = some (BitVec.ofNat 32 s.poster.head)
    ∧ ∃ v, s.readRegister .fault = some v ∧ v.extractLsb' 9 23 = 0 ∧ v.getLsbD 0 = s.flag .haltSetup
        ∧ v.getLsbD 1 = s.flag .haltFetch ∧ v.getLsbD 2 = s.flag .haltPost ∧ v.getLsbD 3 = s.flag .badIndex
        ∧ v.getLsbD 4 = s.flag .badSetup ∧ v.getLsbD 5 = s.flag .profileNone ∧ v.getLsbD 6 = s.flag .profileOneBad
        ∧ v.getLsbD 7 = s.flag .deviceLost ∧ v.getLsbD 8 = s.flag .faillistDrop

/-! ### Lines and resets -/

/-- LINK_RESET puts every block into its link reset state at once, whatever was going on; the lines GRD and BW and the commands that
wait are outside the part. While HRST stays asserted, no command but its release changes anything beside the level of the line GRD,
and the part stays held. -/
def Obligations.LinkResetHoldsEveryBlock : Prop :=
  (∀ s : State, ∃ t : State, exec .linkReset s = .next t ∧ t.HeldInReset ∧ t.pins.grd = s.pins.grd ∧ t.pins.bw = s.pins.bw
    ∧ t.zones.guard = s.pins.grd ∧ t.pending = s.pending)
  ∧ ∀ (c : Instr) (s : State), s.HeldInReset → (∀ bw, c ≠ .hrstRelease bw) →
    ∃ t : State, exec c s = .next t ∧ t.HeldInReset ∧ ((∀ a, c ≠ .grdChange a) → c ≠ .linkReset → t = s)

/-- HRST_RELEASE of a part held in reset begins LOADING, with BW taken as the boot width and the guard level of the line; SETUP_ADDR
and both enables read 0. With HRST not asserted there is no release, and the state is left as it is (that clause is the model's own
choice, notes/assumptions/3.md). -/
def Obligations.HrstReleaseBeginsLoading : Prop :=
  (∀ (s : State) (bw : Bool), s.HeldInReset →
    ∃ t : State, exec (.hrstRelease bw) s = .next t ∧ t.LoadingBegun bw s.pins.grd ∧ t.host.setupAddr = 0
      ∧ t.host.intEnable = false ∧ t.host.faultIntEnable = false ∧ t.pending = s.pending)
  ∧ ∀ (s : State) (bw : Bool), s.pins.hrst = false → exec (.hrstRelease bw) s = .next s

/-- GRD_CHANGE: from that event on every check and STATE find the new level; no block acts on the change. While HRST is asserted
only the line moves (that clause is the model's own choice, notes/assumptions/18.md). -/
def Obligations.GrdChangeTakesLevel : Prop :=
  ∀ (s : State) (a : Bool), ∃ t : State, exec (.grdChange a) s = .next t
    ∧ t = { s with pins := t.pins, zones := t.zones }
    ∧ t.pins = { s.pins with grd := a }
    ∧ t.zones = { s.zones with guard := if s.pins.hrst then s.zones.guard else a }

/-- LOCAL_RESET with the engine idle happens in the event of the write: LOADING begins, both enables are taken as written, SETUP_ADDR
is kept. With a transfer on the bus the reset is pending; a second one while one is pending takes its enables and nothing else: which
of R163's two sentences holds there is the model's own choice (notes/assumptions/22.md). -/
def Obligations.LocalResetAtOnceOrPending : Prop :=
  (∀ (s : State) (ie fe bw : Bool), s.Live → s.host.engine = none →
    ∃ t : State, exec (.localReset ie fe bw) s = .next t ∧ t.LoadingBegun bw s.pins.grd ∧ t.host.intEnable = ie
      ∧ t.host.faultIntEnable = fe ∧ t.host.setupAddr = s.host.setupAddr ∧ t.pending = s.pending)
  ∧ ∀ (s : State) (ie fe bw : Bool), s.pins.hrst = false →
    s.host.resetPending = true ∨ s.host.engine ≠ none →
    ∃ u : State, exec (.localReset ie fe bw) s = .next u.conclude
      ∧ u = { s.newEvent with host := { s.host with intEnable := ie, faultIntEnable := fe, resetPending := true } }

/-- The end of the burst in progress while a local reset is pending, told by LOCAL_RESET_AT_BURST_END or by the command that ends the
burst: the reset happens, the burst's result is discarded, both enables and SETUP_ADDR are kept, and BW is taken at the reset: as
LOCAL_RESET_AT_BURST_END gives it, else at a level that nothing constrains. Which commands may tell the end, and that free level, are
the model's own choice (notes/assumptions/14.md). -/
def Obligations.PendingResetAtBurstEnd : Prop :=
  ∀ (s : State) (x : Transfer) (c : Instr) (bw : Bool), s.pins.hrst = false → s.host.resetPending = true →
    s.host.engine = some x → c = .localResetAtBurstEnd bw ∨ c.endsBurst x = true ∧ bw = Config.bwLevel (s.event + 1) →
    ∃ t : State, exec c s = .next t ∧ t.LoadingBegun bw s.pins.grd ∧ t.host.intEnable = s.host.intEnable
      ∧ t.host.faultIntEnable = s.host.faultIntEnable ∧ t.host.setupAddr = s.host.setupAddr ∧ t.pending = s.pending

/-! ### Register writes -/

/-- RUN_SET: RUN and the two enables, the part state by the table of R167, and in SETTING_UP the request for the setup block. While a
local reset is pending it takes its two enables and nothing else. -/
def Obligations.RunSetByPartState : Prop :=
  ∀ (s : State) (ie fe : Bool), s.pins.hrst = false →
    ∃ u : State, exec (.runSet ie fe) s = .next u.hostSide
      ∧ u = { s with host := u.host }
      ∧ u.host = { s.host with run := u.host.run, intEnable := ie, faultIntEnable := fe, part := u.host.part
                               setupRequest := u.host.setupRequest }
      ∧ (s.host.resetPending = true → u.host.run = s.host.run)
      ∧ (s.host.resetPending = false → u.host.run = true)
      ∧ (s.host.resetPending = true ∨ s.host.run = true →
          u.host.part = s.host.part ∧ u.host.setupRequest = s.host.setupRequest)
      ∧ (s.host.resetPending = false → s.host.run = false →
          u.host.part = (match s.host.part, s.fetch.config with
            | .stopped, none => .settingUp | .stopped, some _ => .running | .draining, _ => .running | p, _ => p)
          ∧ u.host.setupRequest = (s.host.setupRequest || (s.host.part = .stopped && s.fetch.config.isNone)))

/-- RUN_CLEAR: RUN and the two enables; from RUNNING the part enters DRAINING and every GATHERING buffer is closed, oldest first; in
every other part state the bit is recorded and nothing else happens. While a local reset is pending it takes its two enables only. -/
def Obligations.RunClearDrains : Prop :=
  ∀ (s : State) (ie fe : Bool), s.pins.hrst = false →
    ∃ u : State, exec (.runClear ie fe) s = .next u.conclude
      ∧ (if s.host.resetPending = true then
          u = { s.newEvent with host := { s.host with intEnable := ie, faultIntEnable := fe } }
        else if s.host.run = true ∧ s.host.part = .running then
          u = { s.newEvent with
                host := { s.host with run := false, intEnable := ie, faultIntEnable := fe, part := .draining },
                pool := { s.pool with buffers := u.pool.buffers }, channels := u.channels }
          ∧ s.ClosesGathering u fun _ => true
        else
          u = { s.newEvent with host := { s.host with run := false, intEnable := ie, faultIntEnable := fe } })

/-- INT_ENABLE and FAULT_INT_ENABLE: the enable takes the value and INTREQ follows in that event; nothing else is changed. -/
def Obligations.EnablesMoveIntreq : Prop :=
  ∀ (s : State) (v : Bool), s.pins.hrst = false →
    (∃ t : State, exec (.intEnable v) s = .next t
      ∧ t = { s with host := { s.host with intEnable := v }, pins := { s.pins with intreq := t.pins.intreq } }
      ∧ t.IntreqFollows)
    ∧ ∃ t : State, exec (.faultIntEnable v) s = .next t
      ∧ t = { s with host := { s.host with faultIntEnable := v }, pins := { s.pins with intreq := t.pins.intreq } }
      ∧ t.IntreqFollows

/-- SETUP_ADDR_WRITE is taken only while the part is STOPPED and unconfigured and no local reset is pending, with the six low bits
dropped; else it is ignored and sets no flag. A write to IDENT or STATE, or without all four byte enables, changes nothing. -/
def Obligations.SetupAddrAndIgnoredWrites : Prop :=
  (∀ (s : State) (v : Word), s.pins.hrst = false →
    ∃ t : State, exec (.setupAddrWrite v) s = .next t
      ∧ (if s.host.part = .stopped ∧ s.fetch.config = none ∧ s.host.resetPending = false then
          t = { s with host := { s.host with setupAddr := t.host.setupAddr } }
          ∧ t.host.setupAddr.toNat = v.toNat - v.toNat % 64
        else t = s))
  ∧ ∀ (s : State) (r : Register) (v : Word) (be : BitVec 4), exec (.registerWriteIgnored r v be) s = .next s

/-- NTAIL_WRITE and UTAIL_WRITE: BAD_INDEX and nothing else while the rings are unconfigured or for a value of the ring's size or
more, taken as a whole 32-bit value; otherwise the tail is the value. While a local reset is pending the write is ignored. -/
def Obligations.TailWrites : Prop :=
  ∀ (s : State) (v : Word), s.pins.hrst = false →
    (∃ u : State, exec (.ntailWrite v) s = .next u.hostSide
      ∧ u = (if s.host.resetPending = true then s
        else match s.fetch.config with
          | none => { s with host := { s.host with fault := s.host.fault ||| 0b000001000#9 } }
          | some c =>
            if v.toNat < c.normal.size then { s with fetch := { s.fetch with normalTail := v.toNat } }
            else { s with host := { s.host with fault := s.host.fault ||| 0b000001000#9 } }))
    ∧ ∃ u : State, exec (.utailWrite v) s = .next u.hostSide
      ∧ u = (if s.host.resetPending = true then s
        else match s.fetch.config with
          | none => { s with host := { s.host with fault := s.host.fault ||| 0b000001000#9 } }
          | some c =>
            if v.toNat < c.urgent.size then { s with fetch := { s.fetch with urgentTail := v.toNat } }
            else { s with host := { s.host with fault := s.host.fault ||| 0b000001000#9 } })

/-- CHEAD_WRITE, case by case: unconfigured, value too large, a write that would acknowledge slots not yet written, else taken; a
taken write changes CHEAD alone, and a write of the present value changes nothing. After either reset the ring is unconfigured and
tail, CHEAD and serial counter are 0. While a local reset is pending the write is ignored. The number of unacknowledged records
is (tail − CHEAD) mod size. -/
def Obligations.CheadWrite : Prop :=
  (∀ (s : State) (v : Word), s.pins.hrst = false → s.IndicesFit →
    ∃ u : State, exec (.cheadWrite v) s = .next u.hostSide
      ∧ u = (if s.host.resetPending = true then s
        else match s.fetch.config with
          | none => { s with host := { s.host with fault := s.host.fault ||| 0b000001000#9 } }
          | some c =>
            if c.completion.size ≤ v.toNat then { s with host := { s.host with fault := s.host.fault ||| 0b000001000#9 } }
            else if ((s.poster.tail : Int) - s.poster.head) % c.completion.size
                < ((v.toNat : Int) - s.poster.head) % c.completion.size then
              { s with host := { s.host with fault := s.host.fault ||| 0b000001000#9 } }
            else { s with poster := { s.poster with head := v.toNat } })
      ∧ (s.host.resetPending = false → s.fetch.config ≠ none → v.toNat = s.poster.head → u = s))
  ∧ (∀ s : State, ∃ t : State, exec .linkReset s = .next t ∧ t.fetch.config = none ∧ t.poster = ⟨0, 0, 0⟩)
  ∧ (∀ (s : State) (ie fe bw : Bool), s.Live → s.host.engine = none →
    ∃ t : State, exec (.localReset ie fe bw) s = .next t ∧ t.fetch.config = none ∧ t.poster = ⟨0, 0, 0⟩)
  ∧ (∀ (s : State) (x : Transfer) (bw : Bool), s.pins.hrst = false → s.host.resetPending = true → s.host.engine = some x →
    ∃ t : State, exec (.localResetAtBurstEnd bw) s = .next t ∧ t.fetch.config = none ∧ t.poster = ⟨0, 0, 0⟩)
  ∧ ∀ (s : State) (c : RingConfig), s.fetch.config = some c → s.IndicesFit →
    (s.unacknowledged : Int) = ((s.poster.tail : Int) - s.poster.head) % c.completion.size

/-- FAULT_WRITE clears each flag written as 1, leaves each written as 0, and INTREQ follows; the part state is not changed. -/
def Obligations.FaultWriteClearsFlags : Prop :=
  ∀ (s : State) (v : Word), s.pins.hrst = false →
    ∃ t : State, exec (.faultWrite v) s = .next t
      ∧ t = { s with host := { s.host with fault := t.host.fault }, pins := { s.pins with intreq := t.pins.intreq } }
      ∧ (∀ f : FaultFlag, t.flag f = (s.flag f && !v.getLsbD f.bit))
      ∧ t.IntreqFollows

/-! ### The master engine -/

/-- The master arbiter at the end of an event: while the engine is busy, the part HALTED or a local reset pending it grants nothing;
else class 1, then the oldest request of class 2 (of one event the earliest accepted order), then the order fetch, with the ring
chosen by the table of R170. A granted transfer begins with nothing moved. The completion record is built at its grant. Of class 2, a
write-data read covers the words that hold the span in hand (R99), a read-data store carries the bytes of the staging area with
the enables set for them alone (R125, R157), a report store carries its record in 32 words (R182). That one grant is made at the end
of the event, from all that waits then, is the model's reading (notes/assumptions/17.md). -/
def Obligations.MasterArbiterGrants : Prop :=
  (∀ s : State, s.host.engine ≠ none ∨ s.host.part = .halted ∨ s.host.resetPending = true →
    s.hostSide = { s with pins := { s.pins with intreq := s.hostSide.pins.intreq } })
  ∧ ∀ s : State, s.host.engine = none → s.host.part ≠ .halted → s.host.resetPending = false →
    ∃ t : State, s.hostSide = t
      ∧ t = { s with
            host := { s.host with
              engine := t.host.engine, setupRequest := t.host.setupRequest, requests := t.host.requests },
            fetch := { s.fetch with urgentRun := t.fetch.urgentRun },
            pins := { s.pins with intreq := t.pins.intreq } }
      ∧ t.IntreqFollows
      ∧ ∀ post : Bool, (post = true ↔ s.host.part ≠ .loading ∧ s.orders.done ≠ [] ∧ ∃ c, s.fetch.config = some c ∧
            (s.poster.tail + 1) % c.completion.size ≠ s.poster.head) →
        (∀ c e rest x r, post = true → s.fetch.config = some c → s.orders.done = e :: rest → s.entry? e = some x →
          x.result = some r →
          t.host.engine = some ⟨.completionWrite e, false, c.completion.base + 16 * s.poster.tail, 4,
            wordsAt 0 (completionBytes (s.poster.serial + 1) x r), 0, 0, 0⟩
          ∧ t.host.setupRequest = s.host.setupRequest ∧ t.host.requests = s.host.requests
          ∧ t.fetch.urgentRun = s.fetch.urgentRun)
        ∧ (post = false → s.host.setupRequest = true →
          t.host.engine = some ⟨.setupRead, false, s.host.setupAddr.toNat, 8, [], 0, 0, 0⟩
          ∧ t.host.setupRequest = false ∧ t.host.requests = s.host.requests ∧ t.fetch.urgentRun = s.fetch.urgentRun)
        ∧ (post = false → s.host.setupRequest = false → s.host.requests ≠ [] →
          ∃ r ∈ s.host.requests, ∃ x, t.host.engine = some x ∧ x.job = r.job ∧ x.moved = 0 ∧ x.taken = 0 ∧ x.retries = 0
            ∧ x.givenUp = false ∧ t.host.requests = s.host.requests.erase r ∧ t.host.setupRequest = false
            ∧ t.fetch.urgentRun = s.fetch.urgentRun
            ∧ (∀ e t y sp, r.job = .writeData e → s.gather.turn = some t → s.entry? t.entry = some y → t.span = some sp →
                let host := y.record.buffer.toNat + (sp.address - y.record.address.toNat)
                x.address = host - host % 4 ∧ x.words = (host % 4 + sp.length + 3) / 4 ∧ x.out = [])
            ∧ (∀ e a y, r.job = .readData e → s.reader.active = some a → s.entry? a.entry = some y →
                a.staging.length = a.span.length →
                let host := y.record.buffer.toNat + (a.span.address - y.record.address.toNat)
                x.address = host - host % 4 ∧ x.words = (host % 4 + a.span.length + 3) / 4
                ∧ ∃ bytes, CarriesBytes x.out host bytes ∧ bytes.length = a.span.length
                    ∧ ∀ (k : Nat) b, a.staging[k]? = some (.fromBuffer b) ∨ a.staging[k]? = some (.fromDevice b) →
                        bytes[k]? = some b)
            ∧ (∀ e y, r.job = .reportStore e → s.entry? e = some y →
                x.address = y.record.buffer.toNat ∧ x.words = 32 ∧ CarriesBytes x.out 0 r.record)
            ∧ (∀ r' ∈ s.host.requests, r.since ≤ r'.since)
            ∧ ∀ r' ∈ s.host.requests, ∀ e e', r'.since = r.since →
                (r.job = .writeData e ∨ r.job = .readData e ∨ r.job = .reportStore e) →
                (r'.job = .writeData e' ∨ r'.job = .readData e' ∨ r'.job = .reportStore e') → s.orderAge e' ≤ s.orderAge e)
        ∧ (post = false → s.host.setupRequest = false → s.host.requests = [] →
          t.host.requests = [] ∧ t.host.setupRequest = false ∧
          match s.fetch.config with
          | none => t.host.engine = none ∧ t.fetch.urgentRun = s.fetch.urgentRun
          | some c =>
            if s.host.part = .running ∧ (∃ e, s.entry? e = none)
                ∧ (s.fetch.urgentHead ≠ s.fetch.urgentTail ∨ s.fetch.normalHead ≠ s.fetch.normalTail) then
              if s.fetch.urgentHead ≠ s.fetch.urgentTail
                  ∧ (s.fetch.normalHead = s.fetch.normalTail ∨ s.fetch.urgentRun < 4) then
                t.host.engine = some ⟨.orderFetch .urgent s.fetch.urgentHead, false,
                  c.urgent.base + 32 * s.fetch.urgentHead, 8, [], 0, 0, 0⟩
                ∧ t.fetch.urgentRun = if s.fetch.normalHead = s.fetch.normalTail then 0 else s.fetch.urgentRun + 1
              else
                t.host.engine = some ⟨.orderFetch .normal s.fetch.normalHead, false,
                  c.normal.base + 32 * s.fetch.normalHead, 8, [], 0, 0, 0⟩
                ∧ t.fetch.urgentRun = 0
            else t.host.engine = none ∧ t.fetch.urgentRun = s.fetch.urgentRun)

/-- The 16 bytes of a completion record, offset by offset, with the codes of R184: serial, tag, slot with the ring in bit 15, kind as
fetched, status, failure, count. -/
def Obligations.CompletionRecordBytes : Prop :=
  ∀ (serial : BitVec 16) (x : Entry) (r : Result), x.slot < 2048 → (∀ f, r.failure = some f → f.page < 65536) →
    ∃ bytes, bytes = completionBytes serial x r ∧ bytes.length = 16
      ∧ fieldAt bytes 0 2 = serial.toNat ∧ fieldAt bytes 2 2 = x.record.tag.toNat
      ∧ fieldAt bytes 4 2 = x.slot + (match x.ring with | .normal => 0 | .urgent => 2 ^ 15)
      ∧ (byteAt bytes 6).toNat = (match x.kind with
          | .read => 1 | .write => 2 | .fill => 3 | .flush => 4 | .cancel => 5 | .setZone => 6 | .setGeometry => 7
          | .storeProfile => 8 | .revive => 9 | .report => 10 | .unknown c => c.toNat)
      ∧ (byteAt bytes 7).toNat = (match r.status with
          | .ok => 0 | .badOrder => 1 | .noDevice => 2 | .badRange => 3 | .reservedArea => 4 | .protection => 5
          | .deviceOffline => 6 | .pageFailed => 7 | .lateFailures => 8 | .hostFault => 9 | .cancelled => 10
          | .profileFull => 11)
      ∧ (match r.failure with
          | none => byteAt bytes 8 = 0xFF ∧ byteAt bytes 9 = 0 ∧ fieldAt bytes 10 2 = 0
          | some f => (byteAt bytes 8).toNat = f.device.val ∧ fieldAt bytes 10 2 = f.page
            ∧ (byteAt bytes 9).toNat = (match f.cause with
                | .protection => 1 | .noCycle => 2 | .deviceFlag => 3 | .verify => 4 | .timeout => 5 | .offline => 6))
      ∧ fieldAt bytes 12 4 = r.count.toNat

/-- MASTER_BURST_COMPLETE of a burst that is not the last: the next burst begins with nothing taken and no retry.
MASTER_BURST_RETRY: the burst goes on from the first word not taken; a RETRY with no word taken counts one, another sets the count
back to 0; the one that brings the count to 64 is treated as ABORT, with the same next state as the transfer's end in a host fault. -/
def Obligations.BurstsOfTransfer : Prop :=
  (∀ (s : State) (x : Transfer), s.Live → s.host.engine = some x →
    (x.moved + x.inBurst < x.words →
      ∃ u : State, exec .masterBurstComplete s = .next u.conclude
        ∧ u = { s.newEvent with host := { s.host with
            engine := some { x with moved := x.moved + x.inBurst, taken := 0, retries := 0 } } })
    ∧ ∀ k : Nat, x.taken + k < x.inBurst → (k = 0 → x.retries + 1 < 64) →
      ∃ u : State, exec (.masterBurstRetry k) s = .next u.conclude
        ∧ u = { s.newEvent with host := { s.host with
            engine := some { x with taken := x.taken + k, retries := if k = 0 then x.retries + 1 else 0 } } })
  ∧ ∀ (s : State) (x : Transfer), s.host.engine = some x → x.taken < x.inBurst → 63 ≤ x.retries →
    (x.job = .setupRead → x.words ≤ x.moved + x.inBurst) →
    exec (.masterBurstRetry 0) s = exec (match x.job with
      | .setupRead => .setupBlockReadEnd (.hostFault .abort)
      | .orderFetch _ _ => .orderFetchHostFault .abort
      | .completionWrite _ => .completionWriteEnd (.hostFault .abort)
      | .writeData _ => .writeDataReadEnd (.hostFault .abort)
      | .readData _ => .readDataStoreEnd (.hostFault .abort)
      | .reportStore _ => .reportStoreEnd (.hostFault .abort)) s

/-- The setup block read, granted in SETTING_UP to the idle engine, is 8 words at SETUP_ADDR. SETUP_BLOCK_READ_END with a whole block:
bad by the table of R165, it sets BAD_SETUP, clears RUN and leaves the part STOPPED and unconfigured; good, it configures the rings
and the linger time, and RUN decides the part state. -/
def Obligations.SetupBlockJudged : Prop :=
  (∀ s : State, s.Live → s.host.part = .settingUp → s.fetch.config = none → s.host.setupRequest = true → s.host.engine = none →
    s.hostSide.host.engine = some ⟨.setupRead, false, s.host.setupAddr.toNat, 8, [], 0, 0, 0⟩)
  ∧ ∀ (s : State) (x : Transfer) (b : SetupBlock), s.Live → s.host.engine = some x → x.job = .setupRead →
    x.words ≤ x.moved + x.inBurst →
    ∃ u : State, exec (.setupBlockReadEnd (.complete b)) s = .next u.conclude
      ∧ (SetupBad b → u = { s.newEvent with host := { s.host with
          engine := none, run := false, part := .stopped, fault := s.host.fault ||| 0b000010000#9 } })
      ∧ (¬ SetupBad b → u = { s.newEvent with
          host := { s.host with engine := none, part := if s.host.run then .running else .stopped },
          fetch := { s.fetch with config := some ⟨⟨b.normalBase.toNat, b.normalSize.toNat⟩,
            ⟨b.urgentBase.toNat, b.urgentSize.toNat⟩, ⟨b.completionBase.toNat, b.completionSize.toNat⟩, b.threshold.toNat⟩ },
          pool := { s.pool with linger := b.linger.toNat } })

/-- A host fault on the setup block read, an order fetch or a completion write halts the part with its own HALT flag and changes
nothing else: RUN, the ring's head, the done queue, the tail and the serial counter stay. -/
def Obligations.HaltingHostFaults : Prop :=
  ∀ (s : State) (x : Transfer) (f : BusFault), s.Live → s.host.engine = some x → x.givenUp = false →
    (x.job = .setupRead → x.words ≤ x.moved + x.inBurst →
      ∃ u : State, exec (.setupBlockReadEnd (.hostFault f)) s = .next u.conclude
        ∧ u = { s.newEvent with host := { s.host with engine := none, part := .halted, fault := s.host.fault ||| 0b000000001#9 } })
    ∧ (∀ ring slot, x.job = .orderFetch ring slot →
      ∃ u : State, exec (.orderFetchHostFault f) s = .next u.conclude
        ∧ u = { s.newEvent with host := { s.host with engine := none, part := .halted, fault := s.host.fault ||| 0b000000010#9 } })
    ∧ ∀ e, x.job = .completionWrite e →
      ∃ u : State, exec (.completionWriteEnd (.hostFault f)) s = .next u.conclude
        ∧ u = { s.newEvent with host := { s.host with engine := none, part := .halted, fault := s.host.fault ||| 0b000000100#9 } }

/-- COMPLETION_WRITE_END good: serial and tail advance, the entry leaves the done queue and is free; nothing else is changed. -/
def Obligations.CompletionWritten : Prop :=
  ∀ (s : State) (x : Transfer) (e : EntryId) (c : RingConfig) (rest : List EntryId), s.Live → s.host.engine = some x →
    x.job = .completionWrite e → x.words ≤ x.moved + x.inBurst → s.fetch.config = some c → s.orders.done = e :: rest → e ∉ rest →
    ∃ u : State, exec (.completionWriteEnd .complete) s = .next u.conclude
      ∧ u = { s.newEvent with
              host := { s.host with engine := none },
              poster := ⟨(s.poster.tail + 1) % c.completion.size, s.poster.head, s.poster.serial + 1⟩,
              orders := { s.orders with entries := u.orders.entries, done := rest } }
      ∧ ∀ e', u.entry? e' = if e' = e then none else s.entry? e'

/-- WRITE_DATA_READ_END. Good: the span's bytes are the transfer's bytes from the first byte's place in its first word on. In a host
fault: the WRITE ends HOST_FAULT with the bytes merged as count, leaves every contributor list, and the buffers it joined (all it
merged into, when the linger time is 0) are closed in the order of first merge. -/
def Obligations.WriteDataArrives : Prop :=
  ∀ (s : State) (x : Transfer) (t : Turn) (y : Entry), s.Live → s.host.engine = some x →
    x.job = .writeData t.entry → s.gather.turn = some t → s.entry? t.entry = some y →
    (∀ (words : List Word) (sp : Span), x.words ≤ x.moved + x.inBurst → words.length = x.words → x.givenUp = false →
      t.span = some sp →
      ∃ (u : State) (bytes : List Byte), exec (.writeDataReadEnd (.complete words)) s = .next u.conclude
        ∧ u = { s.newEvent with host := { s.host with engine := none },
                                gather := { s.gather with turn := some { t with bytes := some bytes } } }
        ∧ bytes.length ≤ sp.length
        ∧ ∀ i < sp.length, bytes[i]? =
            let k := (y.record.buffer.toNat + (sp.address - y.record.address.toNat)) % 4 + i
            words[k / 4]?.map fun w => w.extractLsb' (8 * (k % 4)) 8)
    ∧ ∀ f, x.givenUp = false → t.touched.Nodup → t.joined.Nodup →
      ∃ u v : State, exec (.writeDataReadEnd (.hostFault f)) s = .next u.conclude
        ∧ v = { s.newEvent with pool := { s.pool with buffers := v.pool.buffers } }
        ∧ (∀ b, v.buffer? b = (s.buffer? b).map fun y => { y with contributors := y.contributors.filter (· ≠ t.entry) })
        ∧ v.ClosesListed u (if s.pool.linger = 0 then t.touched else t.joined)
        ∧ s.EndsOrder u t.entry y ⟨.hostFault, BitVec.ofNat 32 y.progress, none⟩
        ∧ u = { s.newEvent with host := { s.host with engine := none }, orders := u.orders, channels := u.channels,
                                pool := { s.pool with buffers := u.pool.buffers }, gather := { s.gather with turn := none } }

/-- READ_DATA_STORE_END. Good: the progress grows by the span; after the last span the READ ends OK with its length, with bytes left
the next span is taken. In a host fault: the READ ends HOST_FAULT with the bytes delivered before. -/
def Obligations.ReadDataStored : Prop :=
  ∀ (s : State) (x : Transfer) (a : ActiveRead) (y : Entry), s.Live → s.host.engine = some x →
    x.job = .readData a.entry → s.reader.active = some a → s.entry? a.entry = some y → y.kind = .read →
    (x.words ≤ x.moved + x.inBurst → x.givenUp = false →
      ∃ u : State, exec (.readDataStoreEnd .complete) s = .next u.conclude
        ∧ (if y.record.length ≤ y.progress + a.span.length then
            u = { s.newEvent with host := { s.host with engine := none }, orders := u.orders,
                                  reader := { s.reader with active := none } }
            ∧ s.EndsOrder u a.entry { y with progress := y.progress + a.span.length } ⟨.ok, BitVec.ofNat 32 y.record.length, none⟩
          else
            ∃ v : State, v = { s.newEvent with host := { s.host with engine := none },
                                               orders := { s.orders with entries := v.orders.entries } }
              ∧ (∀ e, e ≠ a.entry → v.entry? e = s.entry? e)
              ∧ v.entry? a.entry = some { y with progress := y.progress + a.span.length }
              ∧ v.TakesReadSpan u a.entry { y with progress := y.progress + a.span.length }))
    ∧ ∀ f, x.givenUp = false →
      ∃ u : State, exec (.readDataStoreEnd (.hostFault f)) s = .next u.conclude
        ∧ u = { s.newEvent with host := { s.host with engine := none }, orders := u.orders,
                                reader := { s.reader with active := none } }
        ∧ s.EndsOrder u a.entry y ⟨.hostFault, BitVec.ofNat 32 y.progress, none⟩

/-- REPORT_STORE_END: every burst good ends the REPORT OK with count 128, a host fault ends it HOST_FAULT with count 0; the part state
is not changed. -/
def Obligations.ReportStored : Prop :=
  ∀ (s : State) (x : Transfer) (e : EntryId) (y : Entry) (r : WriteEnd), s.Live → s.host.engine = some x → x.job = .reportStore e →
    x.givenUp = false → s.entry? e = some y → (r = .complete → x.words ≤ x.moved + x.inBurst) →
    ∃ u : State, exec (.reportStoreEnd r) s = .next u.conclude
      ∧ u = { s.newEvent with host := { s.host with engine := none }, orders := u.orders }
      ∧ s.EndsOrder u e y (match r with
          | .complete => ⟨.ok, 128, none⟩
          | .hostFault _ => ⟨.hostFault, 0, none⟩)

/-! ### Acceptance -/

/-- R73, row by row, for a record of any kind (READ, WRITE, FILL, FLUSH, SET_ZONE, SET_GEOMETRY, STORE_PROFILE, CANCEL, REVIVE, REPORT and
UNKNOWN_KIND: the commands `c` that have a slot): a fetch that ends good fills the lowest free entry and advances the head; refused by the
table, the order is DONE with BAD_ORDER at the tail of the done queue and takes no number, and nothing else is changed; otherwise it
is accepted with the counter's value, whatever the part state and its devices. -/
def Obligations.RecordsAcceptedOrRefused : Prop :=
  ∀ (c : Instr) (code : Byte) (r : OrderRecord) (s : State) (x : Transfer) (ring : RingId) (slot : Nat) (cfg : RingConfig)
    (e : EntryId), c.slot? = some (code, r) → c.wellFormed = true → s.Live → s.host.engine = some x →
    x.job = .orderFetch ring slot → s.fetch.config = some cfg → s.entry? e = none → (∀ e', e' < e → s.entry? e' ≠ none) →
    ∃ u : State, exec c s = .next u.conclude
      ∧ u.fetch = (match ring with
          | .normal => { s.fetch with normalHead := (s.fetch.normalHead + 1) % cfg.normal.size }
          | .urgent => { s.fetch with urgentHead := (s.fetch.urgentHead + 1) % cfg.urgent.size })
      ∧ (Refused code r →
          u = { s.newEvent with host := { s.host with engine := none }, fetch := u.fetch, orders := u.orders }
          ∧ (∃ y, u.entry? e = some y ∧ y.identity = ⟨ring, slot, Kind.ofCode code, r, none⟩ ∧ y.state = .done
              ∧ y.result = some ⟨.badOrder, 0, none⟩)
          ∧ u.orders.done = s.orders.done ++ [e] ∧ u.orders.sequence = s.orders.sequence
          ∧ ∀ e', e' ≠ e → u.entry? e' = s.entry? e')
      ∧ (¬ Refused code r →
          (∃ y, u.entry? e = some y ∧ y.identity = ⟨ring, slot, Kind.ofCode code, r, some s.orders.sequence⟩
            ∧ ∀ z, y.result = some z → z.status ≠ .badOrder)
          ∧ u.orders.sequence = s.orders.sequence + 1)

/-- An accepted READ is WAITING in the Read Engine's waiting set; an accepted WRITE, FILL, FLUSH, SET_ZONE, SET_GEOMETRY or
STORE_PROFILE is WAITING at the tail of the gather queue. Nothing else is changed. -/
def Obligations.AcceptedOrdersHandedOn : Prop :=
  ∀ (c : Instr) (code : Byte) (r : OrderRecord) (s : State) (x : Transfer) (ring : RingId) (slot : Nat) (cfg : RingConfig)
    (e : EntryId), c.slot? = some (code, r) → ¬ Refused code r → s.Live → s.host.engine = some x →
    x.job = .orderFetch ring slot → s.fetch.config = some cfg → s.entry? e = none → (∀ e', e' < e → s.entry? e' ≠ none) →
    (c = .read r ∨ c = .write r ∨ c = .fill r ∨ c = .flush r ∨ c = .setZone r ∨ c = .setGeometry r ∨ c = .storeProfile r) →
    ∃ u : State, exec c s = .next u.conclude
      ∧ u = { s.newEvent with
              host := { s.host with engine := none },
              fetch := u.fetch,
              orders := { s.orders with entries := u.orders.entries, sequence := s.orders.sequence + 1 },
              gather := { s.gather with queue := if c = .read r then s.gather.queue else s.gather.queue ++ [e] },
              reader := { s.reader with waiting := if c = .read r then s.reader.waiting ++ [e] else s.reader.waiting } }
      ∧ u.entry? e = some ⟨ring, slot, Kind.ofCode code, r, some s.orders.sequence, .waiting, 0, 0, none, [], none, none⟩
      ∧ ∀ e', e' ≠ e → u.entry? e' = s.entry? e'

/-- An accepted CANCEL removes exactly the WAITING orders of the ring and tag it names: each is DONE with CANCELLED and count 0 and
leaves the gather queue and the waiting set; they join the done queue by ascending sequence, the CANCEL behind them with OK and their
number. Nothing else is changed. -/
def Obligations.CancelRemovesWaiting : Prop :=
  ∀ (r : OrderRecord) (s : State) (x : Transfer) (ring : RingId) (slot : Nat) (cfg : RingConfig) (e : EntryId),
    ¬ Refused 5 r → s.Live → s.host.engine = some x → x.job = .orderFetch ring slot → s.fetch.config = some cfg →
    s.entry? e = none → (∀ e', e' < e → s.entry? e' ≠ none) →
    ∃ (u : State) (l : List EntryId), exec (.cancel r) s = .next u.conclude
      ∧ (∀ e', e' ∈ l ↔ ∃ y, s.entry? e' = some y ∧ y.state = .waiting
          ∧ y.ring = (if r.selector = 1 then .urgent else .normal) ∧ y.record.tag = r.payload.extractLsb' 0 16)
      ∧ l.Nodup ∧ l.Pairwise (fun a b => u.orderAge b ≤ u.orderAge a)
      ∧ (∀ e' ∈ l, ∀ y, s.entry? e' = some y →
          u.entry? e' = some { y with state := .done, result := some ⟨.cancelled, 0, none⟩ })
      ∧ u.entry? e = some ⟨ring, slot, .cancel, r, some s.orders.sequence, .done, 0, 0, none, [], none,
          some ⟨.ok, BitVec.ofNat 32 l.length, none⟩⟩
      ∧ (∀ e', e' ∉ l → e' ≠ e → u.entry? e' = s.entry? e')
      ∧ u = { s.newEvent with
              host := { s.host with engine := none },
              fetch := u.fetch,
              orders := ⟨u.orders.entries, s.orders.sequence + 1, s.orders.done ++ l ++ [e]⟩,
              gather := { s.gather with queue := s.gather.queue.filter (· ∉ l) },
              reader := { s.reader with waiting := s.reader.waiting.filter (· ∉ l) } }

/-- An accepted REVIVE: NO_DEVICE for an ABSENT device, OK at once for one that is WAKING, IDLE or CYCLING, and for an OFFLINE device a
class-1 ask in its name, with the order ACTIVE. Nothing else is changed. -/
def Obligations.ReviveByDeviceState : Prop :=
  ∀ (r : OrderRecord) (s : State) (x : Transfer) (ring : RingId) (slot : Nat) (cfg : RingConfig) (e : EntryId),
    ¬ Refused 9 r → s.Live → s.host.engine = some x → x.job = .orderFetch ring slot → s.fetch.config = some cfg →
    s.entry? e = none → (∀ e', e' < e → s.entry? e' ≠ none) →
    ∃ u : State, exec (.revive r) s = .next u.conclude
      ∧ (∀ e', e' ≠ e → u.entry? e' = s.entry? e')
      ∧ u = { s.newEvent with
              host := { s.host with engine := none },
              fetch := u.fetch,
              orders := { u.orders with sequence := s.orders.sequence + 1 },
              channels := u.channels }
      ∧ (if (s.device r.position).state = .offline then
          u.entry? e = some ⟨ring, slot, .revive, r, some s.orders.sequence, .active, 0, 0, none, [], none, none⟩
          ∧ u.orders.done = s.orders.done
          ∧ ∀ c, u.channel c = if c = channelOf r.position then
              { s.channel c with waiting := (s.channel c).waiting ++ [⟨r.position, .ask (.revive e), s.event + 1⟩] }
            else s.channel c
        else
          u.entry? e = some ⟨ring, slot, .revive, r, some s.orders.sequence, .done, 0, 0, none, [], none,
            some ⟨if (s.device r.position).state = .absent then .noDevice else .ok, 0, none⟩⟩
          ∧ u.orders.done = s.orders.done ++ [e] ∧ u.channels = s.channels)

/-- An accepted REPORT is ACTIVE and requests one report store; its 128 bytes, at the offsets of R187, are the part as it stands at the
acceptance, the REPORT's own entry counted. Nothing else is changed. -/
def Obligations.ReportSnapshot : Prop :=
  ∀ (r : OrderRecord) (s : State) (x : Transfer) (ring : RingId) (slot : Nat) (cfg : RingConfig) (e : EntryId),
    ¬ Refused 10 r → s.Live → s.host.engine = some x → x.job = .orderFetch ring slot → s.fetch.config = some cfg →
    s.entry? e = none → (∀ e', e' < e → s.entry? e' ≠ none) →
    ∃ (u : State) (bytes : List Byte), exec (.report r) s = .next u.conclude
      ∧ u = { s.newEvent with
              host := { s.host with engine := none, requests := s.host.requests ++ [⟨.reportStore e, s.event + 1, bytes⟩] },
              fetch := u.fetch,
              orders := { s.orders with entries := u.orders.entries, sequence := s.orders.sequence + 1 } }
      ∧ u.entry? e = some ⟨ring, slot, .report, r, some s.orders.sequence, .active, 0, 0, none, [], none, none⟩
      ∧ (∀ e', e' ≠ e → u.entry? e' = s.entry? e')
      ∧ bytes.length = 128
      ∧ (byteAt bytes 0).toNat = (match s.host.part with
          | .loading => 0 | .stopped => 1 | .settingUp => 2 | .running => 3 | .draining => 4 | .halted => 5)
      ∧ byteAt bytes 1 = (if s.zones.guard then 1 else 0)
      ∧ (byteAt bytes 2).toNat = (match s.loader.inUse with | none => 0 | some .a => 1 | some .b => 2)
      ∧ (byteAt bytes 3).toNat = ((List.finRange 32).filter fun e => (s.entry? e).isSome).length + 1
      ∧ fieldAt bytes 4 4 = s.loader.generation.toNat
      ∧ (s.pool.failures.length ≤ 8 → (byteAt bytes 8).toNat = s.pool.failures.length)
      ∧ byteAt bytes 9 = 0 ∧ fieldAt bytes 10 2 = s.pool.dropped.toNat ∧ fieldAt bytes 12 4 = 0
      ∧ (∀ d : DevicePos,
          (byteAt bytes (16 + 8 * d.val)).toNat = (match (s.device d).state with
            | .absent => 0 | .waking => 1 | .idle => 2 | .cycling => 3 | .offline => 4)
          ∧ byteAt bytes (17 + 8 * d.val) = 0 ∧ fieldAt bytes (18 + 8 * d.val) 2 = (s.device d).failedAttempts.toNat
          ∧ fieldAt bytes (20 + 8 * d.val) 4 = (s.device d).pagesProgrammed.toNat)
      ∧ ∀ b : BufferId,
          match s.buffer? b with
          | none => byteAt bytes (80 + 3 * b.val) = 0 ∧ fieldAt bytes (81 + 3 * b.val) 2 = 0
          | some y =>
            (byteAt bytes (80 + 3 * b.val)).extractLsb' 4 4 = (match y.state with
              | .gathering => 1 | .closed => 2 | .filling => 3 | .programming => 4 | .verifying => 5)
            ∧ ((byteAt bytes (80 + 3 * b.val)).extractLsb' 0 4).toNat = y.device.val
            ∧ (y.page < 65536 → fieldAt bytes (81 + 3 * b.val) 2 = y.page)

/-! ### Starts at the head of the gather queue -/

/-- WRITE_START and FILL_START: held back by R83 nothing starts; else the checks of R97 in order, the first that fails ending the order
with its status; an order that passes them is the order at its turn. -/
def Obligations.WriteAndFillStart : Prop :=
  ∀ (s : State) (e : EntryId) (x : Entry) (rest : List EntryId) (c : Instr), s.pins.hrst = false → s.gather.turn = none →
    s.gather.queue = e :: rest → s.entry? e = some x → x.sequence ≠ none →
    (c = .writeStart ∧ x.kind = .write ∨ c = .fillStart ∧ x.kind = .fill) →
    (¬ s.GatherAllowed x → exec c s = .next s)
    ∧ (s.GatherAllowed x →
      ∃ u : State, exec c s = .next u.conclude
        ∧ (let d := x.record.position
           let a := x.record.address.toNat
           let n := x.record.length
           if (s.device d).state = .absent then s.StartFails u e x .noDevice
           else if (s.device d).state = .offline then s.StartFails u e x .deviceOffline
           else if s.pageSize d * s.pageCount d < a + n then s.StartFails u e x .badRange
           else if d = 0 ∧ a < 1024 then s.StartFails u e x .reservedArea
           else ((∃ p, a / s.pageSize d ≤ p ∧ p ≤ (a + n - 1) / s.pageSize d ∧ s.Locked d p) → s.StartFails u e x .protection)
             ∧ ((¬ ∃ p, a / s.pageSize d ≤ p ∧ p ≤ (a + n - 1) / s.pageSize d ∧ s.Locked d p) →
                u = { s.newEvent with
                      orders := { s.orders with entries := u.orders.entries },
                      gather := ⟨s.gather.queue.filter (· ≠ e), some ⟨e, if x.kind = .write then .hostData
                        else .pattern x.record.selector, none, none, [], []⟩⟩,
                      startedGather := [e] }
                ∧ u.entry? e = some { x with state := .active }
                ∧ ∀ e', e' ≠ e → u.entry? e' = s.entry? e')))

/-- FLUSH_START: NO_DEVICE for a single device that is ABSENT; with no buffer in its scope the FLUSH reports at once; else the GATHERING
buffers in its scope are closed and the FLUSH is HELD with every non-FREE one as its watch. It does not hold the turn. -/
def Obligations.FlushStart : Prop :=
  ∀ (s : State) (e : EntryId) (x : Entry) (rest : List EntryId), s.pins.hrst = false → s.gather.turn = none →
    s.gather.queue = e :: rest → s.entry? e = some x → x.kind = .flush →
    ∃ u : State, exec .flushStart s = .next u.conclude
      ∧ (let scope : Buffer → Bool := fun y => x.record.device = 15 || x.record.position = y.device
         if x.record.device ≠ 15 ∧ (s.device x.record.position).state = .absent then s.StartFails u e x .noDevice
         else if ∀ b y, s.buffer? b = some y → scope y = false then
           u = { s.newEvent with
                 orders := { s.orders with entries := u.orders.entries },
                 gather := { s.gather with queue := s.gather.queue.filter (· ≠ e) },
                 pool := { s.pool with
                   failures := s.pool.failures.filter fun f => !(x.record.device = 15 || x.record.position = f.device),
                   dropped := if x.record.device = 15 then 0 else s.pool.dropped },
                 startedGather := [e] }
           ∧ u.entry? e = some { x with state := .done, result := some (s.flushTakes x) }
           ∧ ∀ e', e' ≠ e → u.entry? e' = s.entry? e'
         else s.TakesWatch u e x .held none scope)

/-- FLUSH_REPORT: every HELD FLUSH whose watch is empty ends, by ascending sequence; the first takes the failure list entries of its
scope, and the dropped counter if it is for all devices, and reports them; a later one reports only what those before it have left
(R109); the list keeps the entries outside every scope. -/
def Obligations.FlushReports : Prop :=
  ∀ (s : State) (e : EntryId) (x : Entry), s.pins.hrst = false → s.entry? e = some x → x.kind = .flush → x.state = .held →
    x.watch = [] →
    ∃ (u : State) (l : List EntryId), exec .flushReport s = .next u.conclude
      ∧ (∀ e', e' ∈ l ↔ ∃ y, s.entry? e' = some y ∧ y.kind = .flush ∧ y.state = .held ∧ y.watch = [])
      ∧ l.Nodup ∧ l.Pairwise (fun a b => s.orderAge b ≤ s.orderAge a)
      ∧ u = { s.newEvent with
              orders := ⟨u.orders.entries, s.orders.sequence, s.orders.done ++ l⟩,
              pool := { s.pool with
                failures := s.pool.failures.filter fun f => l.all fun e' => match s.entry? e' with
                  | some y => !(y.record.device = 15 || y.record.position = f.device)
                  | none => true,
                dropped := u.pool.dropped } }
      ∧ u.pool.dropped = (if l.any (fun e' => match s.entry? e' with
          | some y => y.record.device = 15
          | none => false) then 0 else s.pool.dropped)
      ∧ (∀ e', e' ∉ l → u.entry? e' = s.entry? e')
      ∧ (∀ e' ∈ l, ∀ y, s.entry? e' = some y → ∃ r, u.entry? e' = some { y with state := .done, result := some r }
          ∧ (r.status = .ok ∨ r.status = .lateFailures))
      ∧ (∀ e' y, l.head? = some e' → s.entry? e' = some y →
          u.entry? e' = some { y with state := .done, result := some (s.flushTakes y) })
      ∧ ∀ (before : List EntryId) (e' : EntryId) (after : List EntryId) (y : Entry), l = before ++ e' :: after → s.entry? e' = some y →
          u.entry? e' = some { y with state := .done, result := some (State.flushTakes
            { s with pool := { s.pool with
                failures := s.pool.failures.filter fun f => before.all fun k => match s.entry? k with
                  | some z => !(z.record.device = 15 || z.record.position = f.device)
                  | none => true,
                dropped := if before.any (fun k => match s.entry? k with
                  | some z => z.record.device = 15
                  | none => false) then 0 else s.pool.dropped } } y) }

/-- SET_ZONE_START: the guard check, the range check, then the wait for the buffers of the pages of the old and of the new entry; with
none of them it acts at once. SET_ZONE_ACTION with the watch empty: the guard is checked again and the entry at the index is
replaced, or the order ends PROTECTED with no change; the turn is given up. -/
def Obligations.SetZoneStartAndAction : Prop :=
  (∀ (s : State) (e : EntryId) (x : Entry) (rest : List EntryId) (new : Option Zone), s.pins.hrst = false → s.gather.turn = none →
    s.gather.queue = e :: rest → s.entry? e = some x → x.kind = .setZone → x.record.zone = some new →
    ∃ u : State, exec .setZoneStart s = .next u.conclude
      ∧ ∀ guarded badRange concerned : Prop,
        (guarded ↔ s.zones.guard = true ∧ ∃ z, s.zones.entries[x.record.zoneIndex] = some z ∧ z.mode = .guardedZone) →
        (badRange ↔ ∃ z, new = some z ∧ s.pageCount z.device ≤ z.last) →
        (concerned ↔ ∃ b y, s.buffer? b = some y ∧ (s.Concerns s.zones.entries[x.record.zoneIndex] y ∨ s.Concerns new y)) →
        (guarded → s.StartFails u e x .protection)
        ∧ (¬ guarded → badRange → s.StartFails u e x .badRange)
        ∧ (¬ guarded → ¬ badRange → ¬ concerned →
            u = { s.newEvent with
                  orders := { s.orders with entries := u.orders.entries },
                  gather := { s.gather with queue := s.gather.queue.filter (· ≠ e) },
                  zones := { s.zones with entries := s.zones.entries.set x.record.zoneIndex new },
                  startedGather := [e] }
            ∧ u.entry? e = some { x with state := .done, result := some ⟨.ok, 0, none⟩, watch := [], progress := 0 }
            ∧ ∀ e', e' ≠ e → u.entry? e' = s.entry? e')
        ∧ (¬ guarded → ¬ badRange → concerned →
            ∃ p : Buffer → Bool,
              (∀ y, p y = true ↔ s.Concerns s.zones.entries[x.record.zoneIndex] y ∨ s.Concerns new y)
              ∧ s.TakesWatch u e x .held (some ⟨e, .barrier, none, none, [], []⟩) p))
  ∧ ∀ (s : State) (t : Turn) (x : Entry) (new : Option Zone), s.pins.hrst = false → s.gather.turn = some t → t.work = .barrier →
    s.entry? t.entry = some x → x.kind = .setZone → x.watch = [] → x.record.zone = some new →
    ∃ u : State, exec .setZoneAction s = .next u.conclude
      ∧ (let i := x.record.zoneIndex
         let refused : Prop := s.zones.guard = true ∧ ∃ z, s.zones.entries[i] = some z ∧ z.mode = .guardedZone
         (refused → u = { s.newEvent with orders := u.orders, gather := { s.gather with turn := none } }
            ∧ s.EndsOrder u t.entry x ⟨.protection, 0, none⟩)
         ∧ (¬ refused → u = { s.newEvent with orders := u.orders, gather := { s.gather with turn := none },
                                               zones := { s.zones with entries := s.zones.entries.set i new } }
            ∧ s.EndsOrder u t.entry x ⟨.ok, 0, none⟩))

/-- SET_GEOMETRY_START: held back by R84 nothing starts; a geometry that does not fit ends BAD_ORDER; else the wait for every buffer of
the device, and with none the geometry is applied at once. SET_GEOMETRY_APPLY with the watch empty: the geometry is replaced, the
device acts by R40, the order ends OK and gives up its turn. R40 does not speak of a frame in progress: that the result of one to a
device that becomes ABSENT is not used, but for a REVIVE ask, is the model's inference (notes/assumptions/11.md). -/
def Obligations.SetGeometryStartAndApply : Prop :=
  (∀ (s : State) (e : EntryId) (x : Entry) (rest : List EntryId) (new : Option Geometry), s.pins.hrst = false →
    s.gather.turn = none → s.gather.queue = e :: rest → s.entry? e = some x → x.sequence ≠ none → x.kind = .setGeometry →
    x.record.geometry = some new →
    (¬ s.GatherAllowed x → exec .setGeometryStart s = .next s)
    ∧ (s.GatherAllowed x →
      ∃ u : State, exec .setGeometryStart s = .next u.conclude
        ∧ (¬ s.GeometryFits x.record.position new → s.StartFails u e x .badOrder)
        ∧ (s.GeometryFits x.record.position new → (∀ b y, s.buffer? b = some y → y.device ≠ x.record.position) →
            u = { s.newEvent with
                  orders := { s.orders with entries := u.orders.entries },
                  gather := { s.gather with queue := s.gather.queue.filter (· ≠ e) },
                  loader := { s.loader with geometry := u.loader.geometry },
                  devices := u.devices,
                  channels := u.channels,
                  startedGather := [e] }
            ∧ s.newEvent.GeometryApplied u x.record.position new
            ∧ u.entry? e = some { x with state := .done, result := some ⟨.ok, 0, none⟩, watch := [], progress := 0 }
            ∧ ∀ e', e' ≠ e → u.entry? e' = s.entry? e')
        ∧ (s.GeometryFits x.record.position new → (∃ b y, s.buffer? b = some y ∧ y.device = x.record.position) →
            s.TakesWatch u e x .held (some ⟨e, .barrier, none, none, [], []⟩) fun y => y.device = x.record.position)))
  ∧ ∀ (s : State) (t : Turn) (x : Entry) (new : Option Geometry), s.pins.hrst = false → s.gather.turn = some t →
    t.work = .barrier → s.entry? t.entry = some x → x.kind = .setGeometry → x.watch = [] → x.record.geometry = some new →
    ∃ u : State, exec .setGeometryApply s = .next u.conclude
      ∧ u = { s.newEvent with
              orders := u.orders, gather := { s.gather with turn := none },
              loader := { s.loader with geometry := u.loader.geometry }, devices := u.devices, channels := u.channels }
      ∧ s.newEvent.GeometryApplied u x.record.position new
      ∧ s.EndsOrder u t.entry x ⟨.ok, 0, none⟩

/-- STORE_PROFILE_START: held back by R83 nothing starts; PROTECTED while the guard line is asserted; PROFILE_FULL at generation FFFFFFFFh;
else it chooses its target copy and waits for the buffers of the target's pages, in ACTIVE; with none it comes to its build at once.
STORE_PROFILE_BUILD with the watch empty: DEVICE_OFFLINE for an OFFLINE device 0, with the copy knowledge as it stood (the model's own
choice, notes/assumptions/10.md); else the record of the next generation is ready to gather. That the generation after FFFFFFFFh, which
only the build of an order started before can meet, is 0 is the model's own choice (notes/assumptions/24.md). -/
def Obligations.StoreProfileStartAndBuild : Prop :=
  (∀ (s : State) (e : EntryId) (x : Entry) (rest : List EntryId) (k : CopyId), s.pins.hrst = false →
    s.gather.turn = none → s.gather.queue = e :: rest → s.entry? e = some x → x.sequence ≠ none → x.kind = .storeProfile →
    s.loader.targets k →
    (¬ s.GatherAllowed x → exec .storeProfileStart s = .next s)
    ∧ (s.GatherAllowed x →
      ∃ u : State, exec .storeProfileStart s = .next u.conclude
        ∧ (if s.zones.guard = true then s.StartFails u e x .protection
           else if s.loader.generation = 0xFFFFFFFF#32 then s.StartFails u e x .profileFull
           else if (∃ b, ∃ y, s.buffer? b = some y ∧ s.holdsCopy k y = true) then
             s.TakesWatch u e { x with store := some ⟨k, 0⟩ } .active (some ⟨e, .barrier, none, none, [], []⟩) (s.holdsCopy k)
           else
             (∀ e', e' ≠ e → u.entry? e' = s.entry? e')
             ∧ if (s.device 0).state = .offline then
                u = { s.newEvent with
                      orders := { s.orders with entries := u.orders.entries },
                      gather := { s.gather with queue := s.gather.queue.filter (· ≠ e) },
                      startedGather := [e] }
                ∧ u.entry? e = some { x with state := .done, store := some ⟨k, 0⟩, watch := [], progress := 0,
                                             result := some ⟨.deviceOffline, 0, none⟩ }
               else
                u = { s.newEvent with
                      orders := { s.orders with entries := u.orders.entries },
                      gather := ⟨s.gather.queue.filter (· ≠ e), some ⟨e, .profileRecord (profileBytes (s.loader.generation + 1)
                        s.loader.geometry s.zones.entries), none, none, [], []⟩⟩,
                      startedGather := [e] }
                ∧ u.entry? e = some { x with state := .active, store := some ⟨k, s.loader.generation + 1⟩, watch := [],
                                             progress := 0 })))
  ∧ ∀ (s : State) (t : Turn) (x : Entry) (j : StoreJob), s.pins.hrst = false → s.gather.turn = some t → t.work = .barrier →
    s.entry? t.entry = some x → x.kind = .storeProfile → x.watch = [] → x.store = some j →
    ∃ u : State, exec .storeProfileBuild s = .next u.conclude
      ∧ (if (s.device 0).state = .offline then
          u = { s.newEvent with orders := u.orders, gather := { s.gather with turn := none } }
          ∧ s.EndsOrder u t.entry x ⟨.deviceOffline, 0, none⟩
        else
          u = { s.newEvent with
                orders := { s.orders with entries := u.orders.entries },
                gather := { s.gather with turn := some { t with work := .profileRecord (profileBytes (s.loader.generation + 1)
                  s.loader.geometry s.zones.entries) } } }
          ∧ u.entry? t.entry = some { x with progress := 0, store := some ⟨j.target, s.loader.generation + 1⟩ }
          ∧ ∀ e', e' ≠ t.entry → u.entry? e' = s.entry? e')

/-! ### Reads -/

/-- READ_START: with no active and no ready read, the earliest accepted waiting READ that R82 allows starts and makes the checks of
R117; it ends with the status of the first that fails, or takes its first span. Where R82 holds every waiting READ back, none starts.
READ_RESUME: with no active read, the earliest accepted ready read is ACTIVE again and takes afresh the span it parked on. In any
state, whatever else its waiting set holds. -/
def Obligations.ReadStartAndResume : Prop :=
  (∀ (s : State), s.pins.hrst = false → s.reader.active = none → s.reader.ready = [] →
    ((∀ e ∈ s.reader.waiting, ∀ x, s.entry? e = some x → x.sequence ≠ none ∧ ¬ s.ReadAllowed x) →
      exec .readStart s = .next s)
    ∧ ∀ (e : EntryId) (x : Entry), e ∈ s.reader.waiting → s.entry? e = some x → x.kind = .read → x.sequence ≠ none →
      s.ReadAllowed x →
      (∀ e' ∈ s.reader.waiting, ∀ y, e' ≠ e → s.entry? e' = some y → s.ReadAllowed y → s.orderAge e' < s.orderAge e) →
      ∃ u v : State, exec .readStart s = .next u.conclude
        ∧ v = { s.newEvent with
                orders := { s.orders with entries := v.orders.entries },
                reader := { s.reader with waiting := s.reader.waiting.filter (· ≠ e) },
                startedRead := [e] }
        ∧ (∀ e', e' ≠ e → v.entry? e' = s.entry? e')
        ∧ (let d := x.record.position
           let failing (status : Status) : Prop :=
             u = v ∧ v.entry? e = some { x with state := .done, result := some ⟨status, 0, none⟩ }
           if (s.device d).state = .absent then failing .noDevice
           else if (s.device d).state = .offline then failing .deviceOffline
           else if s.pageSize d * s.pageCount d < x.record.address.toNat + x.record.length then failing .badRange
           else v.entry? e = some { x with state := .active } ∧ v.TakesReadSpan u e { x with state := .active }))
  ∧ ∀ (s : State) (e : EntryId) (x : Entry), s.pins.hrst = false → s.reader.active = none → e ∈ s.reader.ready →
    s.entry? e = some x → x.kind = .read → (∀ e' ∈ s.reader.ready, e' ≠ e → s.orderAge e' < s.orderAge e) →
    ∃ u v : State, exec .readResume s = .next u.conclude
      ∧ v = { s.newEvent with
              orders := { s.orders with entries := v.orders.entries },
              reader := { s.reader with ready := s.reader.ready.filter (· ≠ e) } }
      ∧ v.entry? e = some { x with state := .active } ∧ (∀ e', e' ≠ e → v.entry? e' = s.entry? e')
      ∧ v.TakesReadSpan u e { x with state := .active }

/-- The source of each byte of a span: the byte of the newest non-FREE buffer of the page that holds it valid; none where no buffer
holds it. -/
def Obligations.NewestBufferSuppliesByte : Prop :=
  ∀ (s : State) (d : DevicePos) (sp : Span) (i : Nat), i < sp.length →
    ∃ o, (s.spanSources d sp)[i]? = some o
      ∧ (let page := sp.address / s.pageSize d
         let off := sp.address % s.pageSize d + i
         (o = none ↔ ∀ b v, ¬ s.BufferHolds b d page off v)
         ∧ ∀ v, o = some v → ∃ b, s.BufferHolds b d page off v
             ∧ ∀ b' v', s.BufferHolds b' d page off v' → s.bufferAge b ≤ s.bufferAge b')

/-- HOST_READ_FRAME_END: in each byte of the span the newest buffer's byte is laid over the device's, a byte of neither stays as it was;
with every byte there the span is assembled, else the device is asked again. That a byte an earlier frame of the span gave is kept is
the model's inference (notes/assumptions/9.md), and so are the bytes clocked in, FFh where the device drove none
(notes/assumptions/12.md). -/
def Obligations.HostReadFrameEnds : Prop :=
  ∀ (s : State) (c : ChannelId) (f : Frame) (a : ActiveRead) (x : Entry) (k : EntryId) (address n : Nat) (bytes : List Byte),
    s.pins.hrst = false → (s.channel c).frame = some f → f.dropped = false → f.content = .stream (.hostRead k) address n →
    s.reader.active = some a → a.assembled = false → s.entry? a.entry = some x → x.kind = .read → a.staging.length = a.span.length →
    a.span.address ≤ address →
    ∃ (u v : State) (staging : List Staged), exec (.hostReadFrameEnd c bytes) s = .next u.conclude
      ∧ s.FrameOver c v
      ∧ staging.length = a.span.length
      ∧ (∀ i o m, (s.spanSources x.record.position a.span)[i]? = some o → a.staging[i]? = some m →
          staging[i]? = some (match o with
            | some b => Staged.fromBuffer b
            | none =>
              if address - a.span.address ≤ i ∧ i < address - a.span.address + n then
                Staged.fromDevice (bytes.getD (i - (address - a.span.address)) 0xFF)
              else (match m with | Staged.fromDevice b => Staged.fromDevice b | _ => Staged.needed)))
      ∧ (.needed ∉ staging → v.AssemblesSpan u a.entry x a.span staging)
      ∧ (.needed ∈ staging → v.AsksDevice u a.entry x x.record.position a.span staging)

/-! ### Allocation and the ends of orders -/

/-- ALLOCATION_REQUEST_SERVED, when no buffer of the page is CLOSED and a record is FREE: the lowest-index FREE record takes the page, the
counter and the waiting span; it closes when the page is full, or with the order's last span when the order is durable or the linger
time is 0. After its last span a posted order ends OK, and a durable one is HELD for the buffers it contributes to. The Gather Engine's
actions around it: a span ends with its page or the range (R98); its bytes go into the page's GATHERING buffer (R9, R100); a full
contributor list closes that buffer first (R12); without one the request waits behind a CLOSED buffer of the page (R5), takes the
lowest FREE record (R7), or closes the oldest GATHERING buffer once (R6). -/
def Obligations.AllocationServed : Prop :=
  (∀ (s : State) (t : Turn) (x : Entry) (r : AllocRequest) (sp : Span) (bytes : List Byte) (b : BufferId),
    s.pins.hrst = false → s.gather.turn = some t → s.entry? t.entry = some x → s.pool.request = some r → t.span = some sp →
    t.bytes = some bytes → (∀ b' y, s.buffer? b' = some y → y.device = r.device → y.page = r.page → y.state ≠ .closed) →
    s.buffer? b = none → (∀ b', b' < b → s.buffer? b' ≠ none) → b ∉ t.touched → b ∉ t.joined →
    ∃ (u : State) (y : Buffer) (z : Entry), exec .allocationRequestServed s = .next u.conclude
      ∧ u.pool.request = none ∧ u.pool.sequence = s.pool.sequence + 1
      ∧ u.buffer? b = some y ∧ y.device = r.device ∧ y.page = r.page ∧ y.sequence = s.pool.sequence
      ∧ y.image = mergeBytes (List.replicate (s.pageSize r.device) none) (sp.address % s.pageSize x.position) bytes
      ∧ y.contributors = (if x.durable = true then [t.entry] else []) ∧ y.posted = !x.durable
      ∧ (y.verify = true ↔ x.verifies = true ∨ r.device = 0 ∧ r.page * s.pageSize r.device < 1024)
      ∧ y.attempts = 0 ∧ y.cause = none
      ∧ (let last : Prop := x.total ≤ x.progress + sp.length
         (y.state = .gathering ∨ y.state = .closed)
         ∧ (y.state = .closed ↔ y.image.all (·.isSome) = true ∨ last ∧ (x.durable = true ∨ s.pool.linger = 0))
         ∧ y.linger = (if y.state = .closed ∨ s.pool.linger = 0 then none else some s.pool.linger)
         ∧ u.entry? t.entry = some z ∧ z.identity = x.identity
         ∧ (¬ last → z = { x with progress := x.progress + sp.length }
             ∧ u.gather = { s.gather with turn := some { t with
                 span := none, bytes := none, touched := t.touched ++ [b],
                 joined := if x.durable = true then t.joined ++ [b] else t.joined } }
             ∧ u.orders.done = s.orders.done)
         ∧ (last → u.gather = { s.gather with turn := none })
         ∧ (last → x.durable = false → z.state = .done ∧ z.result = some ⟨.ok, BitVec.ofNat 32 x.total, none⟩
             ∧ u.orders.done = s.orders.done ++ [t.entry])
         ∧ (last → x.durable = true → z.state = .held ∧ z.result = x.result ∧ u.orders.done = s.orders.done
             ∧ z.progress = ((List.finRange 16).filter fun b' =>
                 match u.buffer? b' with | some y' => t.entry ∈ y'.contributors | none => false).length)
         ∧ (∀ e, e ≠ t.entry → u.entry? e = s.entry? e)
         ∧ (∀ b' y', b' ≠ b → s.buffer? b' = some y' →
             u.buffer? b' = some y'
             ∨ last ∧ y'.state = .gathering ∧ u.buffer? b' = some { y' with state := .closed, linger := none }))
      ∧ u = { s.newEvent with orders := u.orders, gather := u.gather, pool := u.pool, channels := u.channels }
      ∧ (t.touched.Nodup → t.joined.Nodup → ∃ v fresh, s.newEvent.AllocatesBuffer v r b fresh ∧ v.MergesSpan u t x sp bytes b fresh))
  ∧ ∀ (s : State) (t : Turn) (x : Entry), s.gather.turn = some t → s.entry? t.entry = some x →
    (t.span = none → t.work ≠ .barrier →
      ∃ (u : State) (sp : Span), s.gatherStep? = some u
        ∧ sp.address = x.base + x.progress
        ∧ sp.length = min (x.total - x.progress) (s.pageSize x.position - sp.address % s.pageSize x.position)
        ∧ u = { s with
            gather := { s.gather with turn := some { t with span := some sp, bytes := match t.work with
              | .pattern byte => some (List.replicate sp.length byte)
              | .profileRecord record => some ((record.drop x.progress).take sp.length)
              | .hostData | .barrier => none } }
            host := { s.host with requests := s.host.requests ++
              if t.work = .hostData then [⟨.writeData t.entry, s.event, []⟩] else [] } })
    ∧ ∀ (sp : Span) (bytes : List Byte) (page : Nat), t.span = some sp → t.bytes = some bytes →
      page = sp.address / s.pageSize x.position →
      (s.pool.request = none →
        ((∀ b y, s.buffer? b = some y → ¬ (y.state = .gathering ∧ y.device = x.position ∧ y.page = page)) →
          s.gatherStep? = some { s with pool := { s.pool with request := some ⟨x.position, page, false⟩ } })
        ∧ ∀ b y, s.buffer? b = some y → y.state = .gathering → y.device = x.position → y.page = page →
          (∀ b' y', s.buffer? b' = some y' → y'.state = .gathering → y'.device = x.position → y'.page = page → b' = b) →
          (x.durable = true ∧ t.entry ∉ y.contributors ∧ 8 ≤ y.contributors.length →
            ∃ u v, s.gatherStep? = some u ∧ s.ClosesListed v [b]
              ∧ v = { s with pool := { s.pool with buffers := v.pool.buffers }, channels := v.channels }
              ∧ u = { v with pool := { v.pool with request := some ⟨x.position, page, false⟩ } })
          ∧ (¬ (x.durable = true ∧ t.entry ∉ y.contributors ∧ 8 ≤ y.contributors.length) → t.touched.Nodup → t.joined.Nodup →
            ∃ u, s.gatherStep? = some u ∧ s.MergesSpan u t x sp bytes b y))
      ∧ ∀ r, s.pool.request = some r →
        ((∃ b y, s.buffer? b = some y ∧ y.state = .closed ∧ y.device = r.device ∧ y.page = r.page) → s.gatherStep? = none)
        ∧ ((∀ b y, s.buffer? b = some y → ¬ (y.state = .closed ∧ y.device = r.device ∧ y.page = r.page)) →
          (∀ b, s.buffer? b = none → (∀ b', b' < b → s.buffer? b' ≠ none) → t.touched.Nodup → t.joined.Nodup →
            ∃ u v fresh, s.gatherStep? = some u ∧ s.AllocatesBuffer v r b fresh ∧ v.MergesSpan u t x sp bytes b fresh)
          ∧ ((∀ b, s.buffer? b ≠ none) → r.pressed = true → s.gatherStep? = none)
          ∧ ((∀ b, s.buffer? b ≠ none) → r.pressed = false →
            ∃ u v l, s.gatherStep? = some u ∧ s.ClosesListed v l
              ∧ v = { s with pool := { s.pool with buffers := v.pool.buffers }, channels := v.channels }
              ∧ u = { v with pool := { v.pool with request := some { r with pressed := true } } }
              ∧ ((∀ b y, s.buffer? b = some y → y.state ≠ .gathering) → l = [])
              ∧ ∀ b y, s.buffer? b = some y → y.state = .gathering →
                  ∃ b' y', l = [b'] ∧ s.buffer? b' = some y' ∧ y'.state = .gathering ∧ s.bufferAge b ≤ s.bufferAge b'))

/-- DURABLE_ORDER_END: the earliest HELD durable order with no result left to wait for ends OK, or PAGE_FAILED with the number of failed
pages and the first failure; a STORE_PROFILE brings the Loader's knowledge up to date. -/
def Obligations.DurableOrderEnds : Prop :=
  ∀ (s : State) (e : EntryId) (x : Entry), s.pins.hrst = false → s.entry? e = some x → x.durable = true → x.state = .held →
    x.progress = 0 →
    (∀ e' y, e' ≠ e → s.entry? e' = some y → y.durable = true → y.state = .held → y.progress = 0 →
      s.orderAge e' < s.orderAge e) →
    ∃ u : State, exec .durableOrderEnd s = .next u.conclude
      ∧ u = { s.newEvent with orders := u.orders, loader := u.loader }
      ∧ s.EndsOrder u e x (if x.failedPages = 0 then ⟨.ok, BitVec.ofNat 32 x.total, none⟩
          else ⟨.pageFailed, BitVec.ofNat 32 x.failedPages, x.firstFailure⟩)
      ∧ u.loader = (match x.store with
          | none => s.loader
          | some j =>
            let known : Option (BitVec 32) := if x.failedPages = 0 then some j.generation else none
            { s.loader with
              copyA := if j.target = .a then known else s.loader.copyA,
              copyB := if j.target = .b then known else s.loader.copyB,
              inUse := if x.failedPages = 0 then some j.target else s.loader.inUse,
              generation := if x.failedPages = 0 then j.generation else s.loader.generation })

/-- LOAD_END, when no position is WAKING in phase WAKE_REST: STOPPED, or SETTING_UP with the setup block requested if RUN is set.
DRAIN_END, when the table is empty, no fetch is on the bus and every buffer is FREE: STOPPED. -/
def Obligations.LoadAndDrainEnd : Prop :=
  (∀ s : State, s.pins.hrst = false → s.loader.phase = some .wakeRest → s.host.part = .loading →
    (∀ d, (s.device d).state ≠ .waking) →
    ∃ u : State, exec .loadEnd s = .next u.conclude
      ∧ u = { s.newEvent with
              loader := { s.loader with phase := none },
              host := { s.host with
                part := (if s.host.run then .settingUp else .stopped), setupRequest := s.host.setupRequest || s.host.run } })
  ∧ ∀ s : State, s.pins.hrst = false → s.host.part = .draining → (∀ e, s.entry? e = none) → (∀ b, s.buffer? b = none) →
    (∀ t ring slot, s.host.engine = some t → t.job ≠ .orderFetch ring slot) →
    ∃ u : State, exec .drainEnd s = .next u.conclude
      ∧ u = { s.newEvent with host := { s.host with part := .stopped } }

/-- The end of a buffer: its contributors take its result in list order, and a HELD one with its last result ends: those that end join
the done queue in contributor list order (R19, R91; one that an engine started in this very event joins at the event's end), a
STORE_PROFILE among them with the Loader's knowledge brought up to date (R155). A failed posted page is listed or counted as dropped,
the record is FREE, and it leaves its program queue, its program slot, the touched and joined lists (R102) and every watch. Where no
FLUSH and no barrier order is then due, that is all. -/
def Obligations.BufferEndGivesResults : Prop :=
  ∀ (s : State) (b : BufferId) (y : Buffer) (failure : Option Cause), s.buffer? b = some y → y.contributors.Nodup →
    (∀ e x, e ∈ y.contributors → s.entry? e = some x → b ∉ x.watch) →
    ∃ u : State, u = s.endBufferQuiet b failure
      ∧ u.buffer? b = none ∧ (∀ b', b' ≠ b → u.buffer? b' = s.buffer? b')
      ∧ (let failed : Option PageFailure := failure.map fun c => ⟨y.device, y.page, c⟩
         (∀ e x, e ∈ y.contributors → s.entry? e = some x →
          let pages := if failure.isSome then x.failedPages + 1 else x.failedPages
          let first := if x.firstFailure.isSome then x.firstFailure else failed
          if x.state = .held ∧ x.progress ≤ 1 then
            u.entry? e = some { x with
              failedPages := pages, firstFailure := first, progress := 0, state := .done,
              result := some (if pages = 0 then ⟨.ok, BitVec.ofNat 32 x.total, none⟩
                else ⟨.pageFailed, BitVec.ofNat 32 pages, first⟩) }
          else u.entry? e = some { x with
            failedPages := pages, firstFailure := first, progress := if x.state = .held then x.progress - 1 else x.progress })
         ∧ (∀ e x, e ∉ y.contributors → s.entry? e = some x →
            u.entry? e = some (if b ∈ x.watch then { x with watch := x.watch.filter (· ≠ b), progress := x.progress - 1 } else x))
         ∧ (match failed with
            | some f =>
              if y.posted = false then u.pool.failures = s.pool.failures ∧ u.pool.dropped = s.pool.dropped
                ∧ u.host.fault = s.host.fault
              else if s.pool.failures.length < 8 then
                u.pool.failures = s.pool.failures ++ [f] ∧ u.pool.dropped = s.pool.dropped ∧ u.host.fault = s.host.fault
              else u.pool.failures = s.pool.failures
                ∧ u.pool.dropped = BitVec.ofNat 16 (min 65535 (s.pool.dropped.toNat + 1))
                ∧ u.host.fault = if s.pool.dropped = 0 then s.host.fault ||| 0b100000000#9 else s.host.fault
            | none => u.pool.failures = s.pool.failures ∧ u.pool.dropped = s.pool.dropped ∧ u.host.fault = s.host.fault))
      ∧ (∀ d, u.device d = if d = y.device ∧ (s.device d).slot = some b then { s.device d with slot := none } else s.device d)
      ∧ (∀ c, u.channel c = if c = channelOf y.device then
          { s.channel c with queue := (s.channel c).queue.filter (· ≠ b) } else s.channel c)
      ∧ (∀ e, s.entry? e = none → u.entry? e = none)
      ∧ (let pages (x : Entry) : Nat := if failure.isSome then x.failedPages + 1 else x.failedPages
         ∀ ended : List EntryId,
          ended = y.contributors.filter (fun e => match s.entry? e with
            | some x => x.state = .held && x.progress ≤ 1
            | none => false) →
          u.orders.done = s.orders.done ++ s.joinNow ended
          ∧ u.loader = ended.foldl (fun l e => match s.entry? e with
              | some x => l.storeOver x.store (pages x)
              | none => l) s.loader)
      ∧ u.gather = { s.gather with turn := s.gather.turn.map fun t =>
          { t with touched := t.touched.filter (· ≠ b), joined := t.joined.filter (· ≠ b) } }
      ∧ u = { s with
          orders := { s.orders with entries := u.orders.entries, done := u.orders.done }
          pool := { s.pool with buffers := u.pool.buffers, failures := u.pool.failures, dropped := u.pool.dropped }
          host := { s.host with fault := u.host.fault }
          gather := u.gather, loader := u.loader, devices := u.devices, channels := u.channels }
      ∧ ((∀ e x, u.entry? e = some x → ¬ (x.kind = .flush ∧ x.state = .held ∧ x.watch = [])) →
         (∀ t x, u.gather.turn = some t → u.entry? t.entry = some x → ¬ (t.work = .barrier ∧ x.watch = [])) →
         s.endBuffer b failure = u)

/-- A device that is lost: OFFLINE with its timers off, DEVICE_LOST, no buffer of it left and its program slot empty, its standing
allocation request withdrawn, its parked reads ended DEVICE_OFFLINE with the bytes delivered; other devices and the contents of
their buffers are untouched: so in a state with no barrier order at its turn, outside the boot wake. And in every state the steps of
R38, one after another: its waiting work and its frame in progress (steps 1, 2), its buffers with their causes in their order (step 3,
R64, R65), the reads that need it (step 4, R127), the order that gathers for it (step 5, R105), DEVICE_LOST (step 6), and the default
profile in the boot wake (step 7, R147). That FLUSH and barrier orders act between steps 3 and 4 is the model's inference
(notes/assumptions/8.md); that the answer of a REVIVE ask on the wires is still used is the model's own choice
(notes/assumptions/25.md). -/
def Obligations.LostDeviceEndsItsWork : Prop :=
  (∀ (s : State) (d : DevicePos) (cause : Cause), (∀ t, s.gather.turn = some t → t.work ≠ .barrier) →
    ¬ (d = 0 ∧ s.loader.phase = some .wake0) →
    (∀ b y, s.buffer? b = some y → y.device = d →
      y.state = .gathering ∨ b ∈ (s.channel (channelOf d)).queue ∨ (s.device d).slot = some b) →
    (∀ b, (s.device d).slot = some b → ∃ y, s.buffer? b = some y ∧ y.device = d) →
    ∃ u : State, u = s.goOffline d cause
      ∧ (u.device d).state = .offline ∧ (u.device d).wakeLimit = none ∧ (u.device d).cycleTimer = none
      ∧ (u.device d).pollTimer = false ∧ (u.device d).noAnswer = 0 ∧ (u.device d).confirming = false
      ∧ (u.device d).slot = none
      ∧ (∀ d', d' ≠ d → u.device d' = s.device d')
      ∧ u.flag .deviceLost = true
      ∧ (∀ b y, u.buffer? b = some y → y.device ≠ d)
      ∧ (∀ b y, s.buffer? b = some y → y.device ≠ d → ∃ y', u.buffer? b = some y' ∧ y'.state = y.state ∧ y'.device = y.device
          ∧ y'.page = y.page ∧ y'.image = y.image ∧ y'.sequence = y.sequence)
      ∧ (∀ r, u.pool.request = some r → r.device ≠ d)
      ∧ u.reader.deferred[d] = []
      ∧ (∀ e ∈ s.reader.deferred[d], ∀ x, s.entry? e = some x → ∃ x', u.entry? e = some x' ∧ x'.state = .done
          ∧ (s.gather.turn = none → x.kind = .read → x.state = .parked → x.watch = [] →
              (∀ b y, s.buffer? b = some y → e ∉ y.contributors) →
              x'.result = some ⟨.deviceOffline, BitVec.ofNat 32 x.progress, none⟩)))
  ∧ ∀ (s : State) (d : DevicePos) (cause : Cause),
    ∃ (v w x r q : State) (l : List BufferId), s.GoesOffline v d
      ∧ v.LosesBuffers d l
      ∧ w = l.foldl (fun t b => t.endBufferQuiet b (some (if (s.device d).slot = some b then cause else .offline))) v
      ∧ x = w.reportFlushes.actBarrier
      ∧ ((∀ e y, w.entry? e = some y → ¬ (y.kind = .flush ∧ y.state = .held ∧ y.watch = [])) →
          (∀ t y, w.gather.turn = some t → w.entry? t.entry = some y → ¬ (t.work = .barrier ∧ y.watch = [])) → x = w)
      ∧ x.EndsReads r d
      ∧ r.EndsGather q d
      ∧ (¬ (d = 0 ∧ q.loader.phase = some .wake0) →
          s.goOffline d cause = { q with host := { q.host with fault := q.host.fault ||| 0b010000000#9 } })
      ∧ (d = 0 → q.loader.phase = some .wake0 → (∀ k : DevicePos, k ≠ 0 → q.loader.geometry[k] = none) →
          s.goOffline d cause = { q with
            host := { q.host with fault := q.host.fault ||| 0b010100000#9 }
            zones := { q.zones with entries := Vector.replicate 16 none }
            loader := { q.loader with
              copyA := none, copyB := none, inUse := none, generation := 0, phase := some .wakeRest, judgedA := none
              geometry := (Vector.replicate 8 none).set 0 (some ⟨.b16, 64, q.loader.bootWidth, 20⟩) } })

/-! ### Timers and frames -/

/-- LINGER_EXPIRY of a running linger timer closes its GATHERING buffer; POLL_TIMER_EXPIRY queues the class-1 ask of the device's state;
WAKE_LIMIT_EXPIRY of a WAKING device and CYCLE_TIMER_EXPIRY of one that is CYCLING, or awaits its confirming ask, lose the device. An
expiry that no such timer runs for changes nothing (the model's own choice, notes/assumptions/3.md). -/
def Obligations.TimersExpire : Prop :=
  ∀ s : State, s.pins.hrst = false →
    (∀ b, (∀ y, s.buffer? b = some y → y.state ≠ .gathering ∨ y.linger = none) → exec (.lingerExpiry b) s = .next s)
    ∧ (∀ b y, s.buffer? b = some y → y.state = .gathering → y.linger ≠ none →
      ∃ u : State, exec (.lingerExpiry b) s = .next u.conclude
        ∧ u = { s.newEvent with pool := { s.pool with buffers := u.pool.buffers }, channels := u.channels }
        ∧ u.buffer? b = some { y with state := .closed, linger := none } ∧ (∀ b', b' ≠ b → u.buffer? b' = s.buffer? b')
        ∧ ∀ c, u.channel c = if c = channelOf y.device then
            { s.channel c with queue := (s.channel c).queue ++ [b] } else s.channel c)
    ∧ (∀ d p, (s.device d).pollTimer = true → ((s.device d).state = .waking ∧ p = .wake ∨ (s.device d).state = .cycling ∧ p = .poll) →
      ∃ u v : State, exec (.pollTimerExpiry d) s = .next u.conclude
        ∧ s.newEvent.DeviceBecomes v d { s.device d with pollTimer := false } ∧ v.QueuesWork u d (.ask p))
    ∧ (∀ d, (s.device d).pollTimer = false → exec (.pollTimerExpiry d) s = .next s)
    ∧ (∀ d, (s.device d).state = .waking → (s.device d).wakeLimit ≠ none →
      ∃ u : State, exec (.wakeLimitExpiry d) s = .next u.conclude ∧ u = s.newEvent.goOffline d .offline)
    ∧ (∀ d, (s.device d).state ≠ .waking ∨ (s.device d).wakeLimit = none → exec (.wakeLimitExpiry d) s = .next s)
    ∧ (∀ d, (s.device d).cycleTimer ≠ none →
        ((s.device d).state = .cycling ∨ (s.device d).state = .idle ∧ (s.device d).confirming = true) →
      ∃ u : State, exec (.cycleTimerExpiry d) s = .next u.conclude ∧ u = s.newEvent.goOffline d .timeout)
    ∧ ∀ d, (s.device d).cycleTimer = none → exec (.cycleTimerExpiry d) s = .next s

/-- PAGE_LOAD_END starts the cycle timer with the cycle timeout in force and queues the confirming ask. CONFIRMING_ASK_END: BUSY moves the
device to CYCLING, not BUSY fails the attempt NO_CYCLE, a no-answer is counted and the device taken as CYCLING. -/
def Obligations.ProgramStartAndConfirmingAsk : Prop :=
  ∀ (s : State) (c : ChannelId) (f : Frame), s.pins.hrst = false → (s.channel c).frame = some f → f.dropped = false →
    channelOf f.device = c →
    (∀ b a bytes, f.content = .programStart b a bytes →
      ∃ u v w : State, exec (.pageLoadEnd c) s = .next u.conclude ∧ s.FrameOver c v
        ∧ v.DeviceBecomes w f.device { s.device f.device with cycleTimer := some (s.cycleTimeout f.device), confirming := true }
        ∧ w.QueuesWork u f.device (.ask .confirming))
    ∧ (f.content = .ask .confirming → ∀ status : Byte,
      ∃ u v : State, exec (.confirmingAskEnd c status) s = .next u.conclude ∧ s.FrameOver c v
        ∧ (goodAnswer status → status.getLsbD 3 = true →
          v.DeviceBecomes u f.device { s.device f.device with state := .cycling, pollTimer := true, confirming := false, noAnswer := 0 })
        ∧ (goodAnswer status → status.getLsbD 3 = false → ∀ b y, (s.device f.device).slot = some b → s.buffer? b = some y →
          y.device = f.device →
          ∃ w : State, v.DeviceBecomes w f.device { s.device f.device with cycleTimer := none, confirming := false, noAnswer := 0 }
            ∧ w.AttemptFails u b y .noCycle)
        ∧ (¬ goodAnswer status →
          v.NoAnswer u f.device { s.device f.device with state := .cycling, pollTimer := true, confirming := false }))

/-- POLL_END: BUSY starts the poll timer again; not BUSY the device enters IDLE, and its buffer is verified, ends in success, or with
CYCLE_FAULT fails the attempt DEVICE_FLAG; a no-answer is counted and the poll timer starts again. That an entry to IDLE withdraws a
wake ask still waiting is the model's own choice (notes/assumptions/7.md). -/
def Obligations.PollEndsCycle : Prop :=
  ∀ (s : State) (c : ChannelId) (f : Frame) (status : Byte), s.pins.hrst = false → (s.channel c).frame = some f →
    f.dropped = false → channelOf f.device = c → f.content = .ask .poll →
    ∃ u v : State, exec (.pollEnd c status) s = .next u.conclude ∧ s.FrameOver c v
      ∧ (goodAnswer status → status.getLsbD 3 = true →
        v.DeviceBecomes u f.device { s.device f.device with noAnswer := 0, pollTimer := true })
      ∧ (goodAnswer status → status.getLsbD 3 = false → ∀ b y, (s.device f.device).slot = some b → s.buffer? b = some y →
        y.device = f.device →
        ∃ w : State, v.EntersIdle w f.device
          ∧ (status.getLsbD 1 = true → w.AttemptFails u b y .deviceFlag)
          ∧ (status.getLsbD 1 = false → y.verify = false → w.Succeeds u b f.device)
          ∧ (status.getLsbD 1 = false → y.verify = true →
              ∃ z : State, w.BufferBecomes z b { y with state := .verifying } ∧ z.QueuesWork u f.device (.verifyRead b)))
      ∧ (¬ goodAnswer status → v.NoAnswer u f.device { s.device f.device with pollTimer := true })

/-- WAKE_ASK_END: not BUSY brings the device to IDLE (its CYCLE_FAULT is disregarded), BUSY starts the poll timer again, a no-answer is
counted. REVIVE_ASK_END: not BUSY brings the device to IDLE and ends the REVIVE OK, anything else ends it DEVICE_OFFLINE; a device
that is no longer present is not brought to IDLE, and an entry to IDLE withdraws a wake ask still waiting (both the model's own choice,
notes/assumptions/7.md). -/
def Obligations.WakeAndReviveAsks : Prop :=
  ∀ (s : State) (c : ChannelId) (f : Frame) (status : Byte), s.pins.hrst = false → (s.channel c).frame = some f →
    f.dropped = false → channelOf f.device = c →
    (f.content = .ask .wake →
      ∃ u v : State, exec (.wakeAskEnd c status) s = .next u.conclude ∧ s.FrameOver c v
        ∧ (goodAnswer status → status.getLsbD 3 = false → v.EntersIdle u f.device)
        ∧ (goodAnswer status → status.getLsbD 3 = true →
            v.DeviceBecomes u f.device { s.device f.device with noAnswer := 0, pollTimer := true })
        ∧ (¬ goodAnswer status → v.NoAnswer u f.device { s.device f.device with pollTimer := true }))
    ∧ ∀ e x, f.content = .ask (.revive e) → s.entry? e = some x →
      ∃ u v w : State, exec (.reviveAskEnd c status) s = .next u.conclude ∧ s.FrameOver c v
        ∧ (∀ good : Prop, (good ↔ goodAnswer status ∧ status.getLsbD 3 = false) →
          (good → (s.device f.device).state ≠ .absent → v.EntersIdle w f.device ∧ w.EndsOrder u e x ⟨.ok, 0, none⟩)
          ∧ (¬ good → (s.device f.device).state ≠ .absent → w = v ∧ w.EndsOrder u e x ⟨.deviceOffline, 0, none⟩)
          ∧ ((s.device f.device).state = .absent → w = v ∧ w.EndsOrder u e x ⟨.noDevice, 0, none⟩))
        ∧ u = { w with orders := u.orders }

/-- FILL_READ_END: the holes of the span take the bytes of the device, bytes already gathered stay, and the program start is queued.
VERIFY_READ_END: the span as read back equal to the buffer's bytes ends the buffer in success, else the attempt fails VERIFY. The bytes
are those clocked in, FFh where the device drove none (notes/assumptions/12.md). -/
def Obligations.FillAndVerifyReads : Prop :=
  ∀ (s : State) (c : ChannelId) (f : Frame) (b : BufferId) (y : Buffer) (address n : Nat) (bytes : List Byte),
    s.pins.hrst = false → (s.channel c).frame = some f → f.dropped = false → channelOf f.device = c → s.buffer? b = some y →
    y.device = f.device →
    ∀ lo : Nat, lo = y.image.findIdx (·.isSome) → lo + n ≤ y.image.length →
    ∀ read : List Byte, read.length = n → (∀ i < n, read[i]? = some (bytes.getD i 0xFF)) →
    (f.content = .stream (.fillRead b) address n →
      ∃ (u v w : State) (image : List (Option Byte)), exec (.fillReadEnd c bytes) s = .next u.conclude ∧ s.FrameOver c v
        ∧ image.length = y.image.length
        ∧ (∀ i < y.image.length, image[i]? =
            if lo ≤ i ∧ i < lo + n ∧ y.image[i]? = some none then some (read[i - lo]?) else y.image[i]?)
        ∧ v.BufferBecomes w b { y with image := image, state := .programming } ∧ w.QueuesWork u f.device (.programStart b))
    ∧ (f.content = .stream (.verifyRead b) address n →
      n = y.image.length - y.image.reverse.findIdx (·.isSome) - lo →
      ∃ u v : State, exec (.verifyReadEnd c bytes) s = .next u.conclude ∧ s.FrameOver c v
        ∧ ((∀ i < n, y.image[lo + i]? = some (read[i]?)) → v.Succeeds u b f.device)
        ∧ ((¬ ∀ i < n, y.image[lo + i]? = some (read[i]?)) → v.AttemptFails u b y .verify))

/-- COPY_A_READ_END: copy A is judged and the read of copy B queued. COPY_B_READ_END: copy B is judged and the choice made: the copy of
the higher generation, A where they are equal; PROFILE_ONE_BAD with one copy, PROFILE_NONE and the default geometry with none; every
other position present in the choice wakes. A copy is judged valid exactly when every condition of R146 holds for its bytes, and gives
what they spell; what the Loader knows of each copy is its generation, or that it is invalid. -/
def Obligations.ProfileCopiesJudgedAndChosen : Prop :=
  ∀ (s : State) (f : Frame) (bytes : List Byte) (k : CopyId), s.pins.hrst = false → (s.channel 0).frame = some f →
    f.dropped = false → f.content = .stream (.copyRead k) k.start 256 → bytes.length = 256 →
    ∀ judged : Option Profile, judged = judgeCopy s.loader.bootWidth bytes →
    (judged = none ↔ ¬ CopyValid s.loader.bootWidth bytes)
    ∧ (∀ p, judged = some p → CopyGives bytes p)
    ∧ (k = .a →
      ∃ u v w : State, exec (.copyAReadEnd bytes) s = .next u.conclude ∧ s.FrameOver 0 v
        ∧ w = { v with loader := { s.loader with
            copyA := judged.map Profile.generation, judgedA := judged, phase := some .readB } }
        ∧ w.QueuesWork u 0 (.copyRead .b))
    ∧ (k = .b → (∀ d : DevicePos, d ≠ 0 → s.loader.geometry[d] = none) →
      ∃ u v : State, exec (.copyBReadEnd bytes) s = .next u.conclude ∧ s.FrameOver 0 v
        ∧ u = { v with loader := u.loader, zones := { s.zones with entries := u.zones.entries }, devices := u.devices,
                       channels := u.channels, host := { s.host with fault := u.host.fault } }
        ∧ u.loader.phase = some .wakeRest ∧ u.loader.bootWidth = s.loader.bootWidth ∧ u.loader.judgedA = none
        ∧ (s.loader.judgedA ≠ none ∨ judged ≠ none →
            u.loader.copyA = s.loader.copyA ∧ u.loader.copyB = judged.map Profile.generation)
        ∧ (match s.loader.judgedA, judged with
          | none, none =>
            u.loader.inUse = none ∧ u.loader.generation = 0 ∧ u.loader.copyA = none ∧ u.loader.copyB = none
            ∧ (∀ i : ZoneIndex, u.zones.entries[i] = none)
            ∧ (∀ d : DevicePos, u.loader.geometry[d] = if d = 0 then some ⟨.b16, 64, s.loader.bootWidth, 20⟩ else none)
            ∧ u.host.fault = s.host.fault ||| 0b000100000#9
          | some p, none =>
            u.loader.inUse = some .a ∧ u.loader.generation = p.generation ∧ u.loader.geometry = p.geometry
            ∧ u.zones.entries = p.zones ∧ u.host.fault = s.host.fault ||| 0b001000000#9
          | none, some p =>
            u.loader.inUse = some .b ∧ u.loader.generation = p.generation ∧ u.loader.geometry = p.geometry
            ∧ u.zones.entries = p.zones ∧ u.host.fault = s.host.fault ||| 0b001000000#9
          | some p, some q =>
            u.loader.inUse = some (if p.generation.toNat < q.generation.toNat then .b else .a)
            ∧ (∀ r, r = (if p.generation.toNat < q.generation.toNat then q else p) →
              u.loader.generation = r.generation ∧ u.loader.geometry = r.geometry ∧ u.zones.entries = r.zones)
            ∧ u.host.fault = s.host.fault)
        ∧ u.device 0 = s.device 0
        ∧ (∀ d : DevicePos, d ≠ 0 → u.device d = match u.loader.geometry[d] with
            | some g => (s.device d).wakes g
            | none => s.device d)
        ∧ ∀ (c : ChannelId) (woken : List DevicePos),
            woken = (List.finRange 8).filter (fun d => d ≠ 0 ∧ (u.loader.geometry[d]).isSome = true ∧ channelOf d = c) →
            u.channel c = { v.channel c with
              waiting := (v.channel c).waiting ++ woken.map fun d => ⟨d, .ask .wake, s.event + 1⟩ })

/-- Results nobody waits for any more are discarded. A write-data or read-data transfer that its order has given up frees the engine and
nothing else, and a host fault on it is neither reported nor routed; a dropped frame frees its channel and nothing else. -/
def Obligations.UnusedResultsDiscarded : Prop :=
  (∀ (s : State) (x : Transfer) (e : EntryId), s.Live → s.host.engine = some x → x.givenUp = true →
    (∀ r, x.job = .writeData e → x.mayEndRead r = true →
      ∃ u : State, exec (.writeDataReadEnd r) s = .next u.conclude
        ∧ u = { s.newEvent with host := { s.host with engine := none } })
    ∧ ∀ r, x.job = .readData e → x.mayEndWrite r = true →
      ∃ u : State, exec (.readDataStoreEnd r) s = .next u.conclude
        ∧ u = { s.newEvent with host := { s.host with engine := none } })
  ∧ ∀ (s : State) (c : ChannelId) (f : Frame) (i : Instr), s.pins.hrst = false → (s.channel c).frame = some f → f.dropped = true →
    (match f.content with
      | .programStart _ _ _ => i = .pageLoadEnd c
      | .ask .confirming => ∃ st, i = .confirmingAskEnd c st
      | .ask .poll => ∃ st, i = .pollEnd c st
      | .ask .wake => ∃ st, i = .wakeAskEnd c st
      | .ask (.revive _) => ∃ st, i = .reviveAskEnd c st
      | .stream (.fillRead _) _ _ => ∃ bytes, i = .fillReadEnd c bytes
      | .stream (.verifyRead _) _ _ => ∃ bytes, i = .verifyReadEnd c bytes
      | .stream (.hostRead _) _ _ => ∃ bytes, i = .hostReadFrameEnd c bytes
      | .stream (.copyRead .a) _ _ => c = 0 ∧ ∃ bytes, i = .copyAReadEnd bytes
      | .stream (.copyRead .b) _ _ => c = 0 ∧ ∃ bytes, i = .copyBReadEnd bytes) →
    ∃ u : State, exec i s = .next u.conclude ∧ s.FrameOver c u

/-! ### What every step keeps -/

/-- R174 for every run: a step from a state in which INTREQ follows its condition ends in one, and so does a link reset from any
state. -/
def Obligations.IntreqFollowsEveryStep : Prop :=
  (∀ s t : State, s.IntreqFollows → step s = .next t → t.IntreqFollows)
  ∧ (∀ s : State, ∃ t : State, exec .linkReset s = .next t ∧ t.IntreqFollows ∧ t.pins.intreq = false)
  ∧ ∀ (s : State) (ie fe bw : Bool), s.Live → s.host.engine = none →
    ∃ t : State, exec (.localReset ie fe bw) s = .next t ∧ t.IntreqFollows ∧ t.pins.intreq = false

/-- Every step keeps the host side's state together: indices within their rings, SETUP_ADDR a multiple of 64, an idle engine in HALTED,
the setup block read only in SETTING_UP, the rings unconfigured in LOADING and SETTING_UP, everything in reset while HRST is held. -/
def Obligations.HostSideStaysTogether : Prop :=
  ∀ s t : State, s.HostOk → step s = .next t → t.HostOk

/-- Every step keeps at most one GATHERING or CLOSED buffer for a page, at most 8 contributors and 8 failure list entries, and fewer
than three no-answers counted. -/
def Obligations.PoolStaysTogether : Prop :=
  ∀ s t : State, s.PoolOk → step s = .next t → t.PoolOk

/-- An order entry keeps its ring, slot, kind, record and number until its own completion record has been written or a reset comes. -/
def Obligations.EntryIdentityNeverChanges : Prop :=
  ∀ (s t : State) (c : Instr) (e : EntryId) (x : Entry), s.entry? e = some x → exec c s = .next t → c.isReset = false →
    s.host.resetPending = false → (∀ h, s.host.engine = some h → h.job = .completionWrite e → c ≠ .completionWriteEnd .complete) →
    ∃ y, t.entry? e = some y ∧ y.identity = x.identity

/-- While the guard line is asserted no command replaces a GUARDED zone entry, whatever orders act in its event; outside a reset and the
start-up load. -/
def Obligations.GuardedZoneStays : Prop :=
  ∀ (s t : State) (c : Instr) (i : ZoneIndex) (z : Zone), s.zones.guard = true → s.zones.entries[i] = some z →
    z.mode = .guardedZone → exec c s = .next t → c.isReset = false → s.host.resetPending = false → (∀ bw, c ≠ .hrstRelease bw) →
    s.loader.phase ≠ some .wake0 → (∀ bytes, c ≠ .copyBReadEnd bytes) → t.zones.entries[i] = some z

/-- HALTED is left only by a reset, and a FAULT flag is cleared only by a FAULT write or a reset: any other command leaves a HALTED part
HALTED with its engine idle, and every flag that is set. -/
def Obligations.HaltedAndFlagsStay : Prop :=
  ∀ (s t : State) (c : Instr), exec c s = .next t → c.isReset = false → s.host.resetPending = false →
    (∀ bw, c ≠ .hrstRelease bw) →
    (s.host.part = .halted → s.host.engine = none → t.host.part = .halted ∧ t.host.engine = none)
    ∧ ((∀ v, c ≠ .faultWrite v) → ∀ f, s.flag f = true → t.flag f = true)

/-- The state right after reset is held in reset and meets the three invariants. -/
def Obligations.ResetStateIsInOrder : Prop :=
  State.reset.HeldInReset ∧ State.reset.HostOk ∧ State.reset.PoolOk ∧ State.reset.IntreqFollows

/-- The eight words of an order slot and the fetched order they spell agree, field by field and kind by kind: every well-formed fetched
order is read back from the slot written for it, and every slot is written back from the order it spells. So do the eight words of
the setup block and its fields. The fields stand at the offsets of R183 and R185, the kind at its code. A write of the register window
is the command of its register, and none but REGISTER_WRITE_IGNORED for IDENT, STATE or byte enables that are not all set (R161, R162);
a CONTROL write is read by its bits 31, 0, 1 and 2 alone (R186). Which row a CONTROL write is (LOCAL_RESET, RUN_SET or RUN_CLEAR, each
with both enables, also where it changes an enable alone; never INT_ENABLE or FAULT_INT_ENABLE) is the model's reading
(notes/assumptions/13.md). -/
def Obligations.SlotAndSetupRoundTrip : Prop :=
  (∀ (c : Instr) (w : Vector Word 8), c.wellFormed = true → encodeSlot c = some w → decodeSlot w = c)
  ∧ (∀ w : Vector Word 8, encodeSlot (decodeSlot w) = some w ∧ (decodeSlot w).wellFormed = true)
  ∧ (∀ b : SetupBlock, SetupBlock.ofWords b.toWords = b)
  ∧ (∀ w : Vector Word 8, (SetupBlock.ofWords w).toWords = w)
  ∧ (∀ (w : Vector Word 8) (bytes : List Byte) (r : OrderRecord) (b : SetupBlock), bytes = bytesOfWords w.toList →
      r = OrderRecord.ofWords w → b = SetupBlock.ofWords w →
      bytes.length = 32
      ∧ (r.tag.toNat = fieldAt bytes 0 2 ∧ kindByte w = byteAt bytes 2 ∧ r.flags = byteAt bytes 3 ∧ r.device = byteAt bytes 4
        ∧ r.selector = byteAt bytes 5 ∧ r.lengthLess1.toNat = fieldAt bytes 6 2 ∧ r.address.toNat = fieldAt bytes 8 4
        ∧ r.buffer.toNat = fieldAt bytes 12 4 ∧ r.payload.toNat = fieldAt bytes 16 8 ∧ r.mustBeZero.toNat = fieldAt bytes 24 8)
      ∧ decodeSlot w = (match (byteAt bytes 2).toNat with
          | 1 => .read r | 2 => .write r | 3 => .fill r | 4 => .flush r | 5 => .cancel r | 6 => .setZone r | 7 => .setGeometry r
          | 8 => .storeProfile r | 9 => .revive r | 10 => .report r | _ => .unknownKind (byteAt bytes 2) r)
      ∧ b.normalBase.toNat = fieldAt bytes 0 4 ∧ b.urgentBase.toNat = fieldAt bytes 4 4 ∧ b.completionBase.toNat = fieldAt bytes 8 4
      ∧ b.normalSize.toNat = fieldAt bytes 12 2 ∧ b.urgentSize.toNat = fieldAt bytes 14 2 ∧ b.completionSize.toNat = fieldAt bytes 16 2
      ∧ b.threshold = byteAt bytes 18 ∧ b.linger = byteAt bytes 19 ∧ b.reserved.toNat = fieldAt bytes 20 12)
  ∧ (∀ (bw : Bool) (v : Word), registerWrite bw .control v 0b1111 =
      if v.getLsbD 31 = true then .localReset (v.getLsbD 1) (v.getLsbD 2) bw
      else if v.getLsbD 0 = true then .runSet (v.getLsbD 1) (v.getLsbD 2) else .runClear (v.getLsbD 1) (v.getLsbD 2))
  ∧ (∀ (bw : Bool) (v : Word), registerWrite bw .setupAddr v 0b1111 = .setupAddrWrite v
      ∧ registerWrite bw .ntail v 0b1111 = .ntailWrite v ∧ registerWrite bw .utail v 0b1111 = .utailWrite v
      ∧ registerWrite bw .chead v 0b1111 = .cheadWrite v ∧ registerWrite bw .fault v 0b1111 = .faultWrite v)
  ∧ (∀ (bw : Bool) (r : Register) (v : Word) (be : BitVec 4), r = .ident ∨ r = .state ∨ be ≠ 0b1111 →
      registerWrite bw r v be = .registerWriteIgnored r v be)
  ∧ (List.range 9).map (fun k => Register.atOffset (4 * k)) =
      [some .ident, some .control, some .state, some .setupAddr, some .ntail, some .utail, some .chead, some .fault, none]

/-- The record a STORE_PROFILE writes is a valid copy: judged at the next start-up, it gives back its generation, the working geometry,
and every zone entry cut to the pages its device has (R146, R154). -/
def Obligations.StoredProfileIsValidCopy : Prop :=
  ∀ (generation : BitVec 32) (geometry : Vector (Option Geometry) 8) (zones : Vector (Option Zone) 16) (w : AddressWidth),
    generation ≠ 0 → geometryLegal geometry = true → (geometry[(0 : DevicePos)]).map (·.width) = some w →
    (∀ (i : ZoneIndex) (z : Zone), zones[i] = some z → z.first ≤ z.last) →
    (profileBytes generation geometry zones).length = 256
    ∧ judgeCopy w (profileBytes generation geometry zones) = some ⟨generation, geometry, zones.map (zoneToStore geometry)⟩
end

