-- ==== Sys2Proof/Laws/State.lean ====
section
/-! SUPPORT. What each update of State leaves alone: one lemma per field, so that no proof unfolds a record update; then
what it writes, where that is a plain field. -/

namespace Sys2Proof.Machine

variable (s : State)

/-! ### mapEntry -/

@[simp] theorem State.mapEntry_pins (e : EntryId) (f : Entry → Entry) : (s.mapEntry e f).pins = s.pins := rfl
@[simp] theorem State.mapEntry_host (e : EntryId) (f : Entry → Entry) : (s.mapEntry e f).host = s.host := rfl
@[simp] theorem State.mapEntry_fetch (e : EntryId) (f : Entry → Entry) : (s.mapEntry e f).fetch = s.fetch := rfl
@[simp] theorem State.mapEntry_poster (e : EntryId) (f : Entry → Entry) : (s.mapEntry e f).poster = s.poster := rfl
@[simp] theorem State.mapEntry_gather (e : EntryId) (f : Entry → Entry) : (s.mapEntry e f).gather = s.gather := rfl
@[simp] theorem State.mapEntry_reader (e : EntryId) (f : Entry → Entry) : (s.mapEntry e f).reader = s.reader := rfl
@[simp] theorem State.mapEntry_pool (e : EntryId) (f : Entry → Entry) : (s.mapEntry e f).pool = s.pool := rfl
@[simp] theorem State.mapEntry_channels (e : EntryId) (f : Entry → Entry) : (s.mapEntry e f).channels = s.channels := rfl
@[simp] theorem State.mapEntry_devices (e : EntryId) (f : Entry → Entry) : (s.mapEntry e f).devices = s.devices := rfl
@[simp] theorem State.mapEntry_zones (e : EntryId) (f : Entry → Entry) : (s.mapEntry e f).zones = s.zones := rfl
@[simp] theorem State.mapEntry_loader (e : EntryId) (f : Entry → Entry) : (s.mapEntry e f).loader = s.loader := rfl
@[simp] theorem State.mapEntry_event (e : EntryId) (f : Entry → Entry) : (s.mapEntry e f).event = s.event := rfl
@[simp] theorem State.mapEntry_startedGather (e : EntryId) (f : Entry → Entry) : (s.mapEntry e f).startedGather = s.startedGather := rfl
@[simp] theorem State.mapEntry_startedRead (e : EntryId) (f : Entry → Entry) : (s.mapEntry e f).startedRead = s.startedRead := rfl
@[simp] theorem State.mapEntry_pending (e : EntryId) (f : Entry → Entry) : (s.mapEntry e f).pending = s.pending := rfl

/-! ### mapEntries -/

@[simp] theorem State.mapEntries_pins (f : Entry → Entry) : (s.mapEntries f).pins = s.pins := rfl
@[simp] theorem State.mapEntries_host (f : Entry → Entry) : (s.mapEntries f).host = s.host := rfl
@[simp] theorem State.mapEntries_fetch (f : Entry → Entry) : (s.mapEntries f).fetch = s.fetch := rfl
@[simp] theorem State.mapEntries_poster (f : Entry → Entry) : (s.mapEntries f).poster = s.poster := rfl
@[simp] theorem State.mapEntries_gather (f : Entry → Entry) : (s.mapEntries f).gather = s.gather := rfl
@[simp] theorem State.mapEntries_reader (f : Entry → Entry) : (s.mapEntries f).reader = s.reader := rfl
@[simp] theorem State.mapEntries_pool (f : Entry → Entry) : (s.mapEntries f).pool = s.pool := rfl
@[simp] theorem State.mapEntries_channels (f : Entry → Entry) : (s.mapEntries f).channels = s.channels := rfl
@[simp] theorem State.mapEntries_devices (f : Entry → Entry) : (s.mapEntries f).devices = s.devices := rfl
@[simp] theorem State.mapEntries_zones (f : Entry → Entry) : (s.mapEntries f).zones = s.zones := rfl
@[simp] theorem State.mapEntries_loader (f : Entry → Entry) : (s.mapEntries f).loader = s.loader := rfl
@[simp] theorem State.mapEntries_event (f : Entry → Entry) : (s.mapEntries f).event = s.event := rfl
@[simp] theorem State.mapEntries_startedGather (f : Entry → Entry) : (s.mapEntries f).startedGather = s.startedGather := rfl
@[simp] theorem State.mapEntries_startedRead (f : Entry → Entry) : (s.mapEntries f).startedRead = s.startedRead := rfl
@[simp] theorem State.mapEntries_pending (f : Entry → Entry) : (s.mapEntries f).pending = s.pending := rfl

/-! ### mapBuffer -/

@[simp] theorem State.mapBuffer_pins (b : BufferId) (f : Buffer → Buffer) : (s.mapBuffer b f).pins = s.pins := rfl
@[simp] theorem State.mapBuffer_host (b : BufferId) (f : Buffer → Buffer) : (s.mapBuffer b f).host = s.host := rfl
@[simp] theorem State.mapBuffer_fetch (b : BufferId) (f : Buffer → Buffer) : (s.mapBuffer b f).fetch = s.fetch := rfl
@[simp] theorem State.mapBuffer_poster (b : BufferId) (f : Buffer → Buffer) : (s.mapBuffer b f).poster = s.poster := rfl
@[simp] theorem State.mapBuffer_orders (b : BufferId) (f : Buffer → Buffer) : (s.mapBuffer b f).orders = s.orders := rfl
@[simp] theorem State.mapBuffer_gather (b : BufferId) (f : Buffer → Buffer) : (s.mapBuffer b f).gather = s.gather := rfl
@[simp] theorem State.mapBuffer_reader (b : BufferId) (f : Buffer → Buffer) : (s.mapBuffer b f).reader = s.reader := rfl
@[simp] theorem State.mapBuffer_channels (b : BufferId) (f : Buffer → Buffer) : (s.mapBuffer b f).channels = s.channels := rfl
@[simp] theorem State.mapBuffer_devices (b : BufferId) (f : Buffer → Buffer) : (s.mapBuffer b f).devices = s.devices := rfl
@[simp] theorem State.mapBuffer_zones (b : BufferId) (f : Buffer → Buffer) : (s.mapBuffer b f).zones = s.zones := rfl
@[simp] theorem State.mapBuffer_loader (b : BufferId) (f : Buffer → Buffer) : (s.mapBuffer b f).loader = s.loader := rfl
@[simp] theorem State.mapBuffer_event (b : BufferId) (f : Buffer → Buffer) : (s.mapBuffer b f).event = s.event := rfl
@[simp] theorem State.mapBuffer_startedGather (b : BufferId) (f : Buffer → Buffer) : (s.mapBuffer b f).startedGather = s.startedGather := rfl
@[simp] theorem State.mapBuffer_startedRead (b : BufferId) (f : Buffer → Buffer) : (s.mapBuffer b f).startedRead = s.startedRead := rfl
@[simp] theorem State.mapBuffer_pending (b : BufferId) (f : Buffer → Buffer) : (s.mapBuffer b f).pending = s.pending := rfl

/-! ### mapBuffers -/

@[simp] theorem State.mapBuffers_pins (f : Buffer → Buffer) : (s.mapBuffers f).pins = s.pins := rfl
@[simp] theorem State.mapBuffers_host (f : Buffer → Buffer) : (s.mapBuffers f).host = s.host := rfl
@[simp] theorem State.mapBuffers_fetch (f : Buffer → Buffer) : (s.mapBuffers f).fetch = s.fetch := rfl
@[simp] theorem State.mapBuffers_poster (f : Buffer → Buffer) : (s.mapBuffers f).poster = s.poster := rfl
@[simp] theorem State.mapBuffers_orders (f : Buffer → Buffer) : (s.mapBuffers f).orders = s.orders := rfl
@[simp] theorem State.mapBuffers_gather (f : Buffer → Buffer) : (s.mapBuffers f).gather = s.gather := rfl
@[simp] theorem State.mapBuffers_reader (f : Buffer → Buffer) : (s.mapBuffers f).reader = s.reader := rfl
@[simp] theorem State.mapBuffers_channels (f : Buffer → Buffer) : (s.mapBuffers f).channels = s.channels := rfl
@[simp] theorem State.mapBuffers_devices (f : Buffer → Buffer) : (s.mapBuffers f).devices = s.devices := rfl
@[simp] theorem State.mapBuffers_zones (f : Buffer → Buffer) : (s.mapBuffers f).zones = s.zones := rfl
@[simp] theorem State.mapBuffers_loader (f : Buffer → Buffer) : (s.mapBuffers f).loader = s.loader := rfl
@[simp] theorem State.mapBuffers_event (f : Buffer → Buffer) : (s.mapBuffers f).event = s.event := rfl
@[simp] theorem State.mapBuffers_startedGather (f : Buffer → Buffer) : (s.mapBuffers f).startedGather = s.startedGather := rfl
@[simp] theorem State.mapBuffers_startedRead (f : Buffer → Buffer) : (s.mapBuffers f).startedRead = s.startedRead := rfl
@[simp] theorem State.mapBuffers_pending (f : Buffer → Buffer) : (s.mapBuffers f).pending = s.pending := rfl

/-! ### mapDevice -/

@[simp] theorem State.mapDevice_pins (d : DevicePos) (f : DeviceRecord → DeviceRecord) : (s.mapDevice d f).pins = s.pins := rfl
@[simp] theorem State.mapDevice_host (d : DevicePos) (f : DeviceRecord → DeviceRecord) : (s.mapDevice d f).host = s.host := rfl
@[simp] theorem State.mapDevice_fetch (d : DevicePos) (f : DeviceRecord → DeviceRecord) : (s.mapDevice d f).fetch = s.fetch := rfl
@[simp] theorem State.mapDevice_poster (d : DevicePos) (f : DeviceRecord → DeviceRecord) : (s.mapDevice d f).poster = s.poster := rfl
@[simp] theorem State.mapDevice_orders (d : DevicePos) (f : DeviceRecord → DeviceRecord) : (s.mapDevice d f).orders = s.orders := rfl
@[simp] theorem State.mapDevice_gather (d : DevicePos) (f : DeviceRecord → DeviceRecord) : (s.mapDevice d f).gather = s.gather := rfl
@[simp] theorem State.mapDevice_reader (d : DevicePos) (f : DeviceRecord → DeviceRecord) : (s.mapDevice d f).reader = s.reader := rfl
@[simp] theorem State.mapDevice_pool (d : DevicePos) (f : DeviceRecord → DeviceRecord) : (s.mapDevice d f).pool = s.pool := rfl
@[simp] theorem State.mapDevice_channels (d : DevicePos) (f : DeviceRecord → DeviceRecord) : (s.mapDevice d f).channels = s.channels := rfl
@[simp] theorem State.mapDevice_zones (d : DevicePos) (f : DeviceRecord → DeviceRecord) : (s.mapDevice d f).zones = s.zones := rfl
@[simp] theorem State.mapDevice_loader (d : DevicePos) (f : DeviceRecord → DeviceRecord) : (s.mapDevice d f).loader = s.loader := rfl
@[simp] theorem State.mapDevice_event (d : DevicePos) (f : DeviceRecord → DeviceRecord) : (s.mapDevice d f).event = s.event := rfl
@[simp] theorem State.mapDevice_startedGather (d : DevicePos) (f : DeviceRecord → DeviceRecord) : (s.mapDevice d f).startedGather = s.startedGather := rfl
@[simp] theorem State.mapDevice_startedRead (d : DevicePos) (f : DeviceRecord → DeviceRecord) : (s.mapDevice d f).startedRead = s.startedRead := rfl
@[simp] theorem State.mapDevice_pending (d : DevicePos) (f : DeviceRecord → DeviceRecord) : (s.mapDevice d f).pending = s.pending := rfl

/-! ### mapChannel -/

@[simp] theorem State.mapChannel_pins (c : ChannelId) (f : ChannelEngine → ChannelEngine) : (s.mapChannel c f).pins = s.pins := rfl
@[simp] theorem State.mapChannel_host (c : ChannelId) (f : ChannelEngine → ChannelEngine) : (s.mapChannel c f).host = s.host := rfl
@[simp] theorem State.mapChannel_fetch (c : ChannelId) (f : ChannelEngine → ChannelEngine) : (s.mapChannel c f).fetch = s.fetch := rfl
@[simp] theorem State.mapChannel_poster (c : ChannelId) (f : ChannelEngine → ChannelEngine) : (s.mapChannel c f).poster = s.poster := rfl
@[simp] theorem State.mapChannel_orders (c : ChannelId) (f : ChannelEngine → ChannelEngine) : (s.mapChannel c f).orders = s.orders := rfl
@[simp] theorem State.mapChannel_gather (c : ChannelId) (f : ChannelEngine → ChannelEngine) : (s.mapChannel c f).gather = s.gather := rfl
@[simp] theorem State.mapChannel_reader (c : ChannelId) (f : ChannelEngine → ChannelEngine) : (s.mapChannel c f).reader = s.reader := rfl
@[simp] theorem State.mapChannel_pool (c : ChannelId) (f : ChannelEngine → ChannelEngine) : (s.mapChannel c f).pool = s.pool := rfl
@[simp] theorem State.mapChannel_devices (c : ChannelId) (f : ChannelEngine → ChannelEngine) : (s.mapChannel c f).devices = s.devices := rfl
@[simp] theorem State.mapChannel_zones (c : ChannelId) (f : ChannelEngine → ChannelEngine) : (s.mapChannel c f).zones = s.zones := rfl
@[simp] theorem State.mapChannel_loader (c : ChannelId) (f : ChannelEngine → ChannelEngine) : (s.mapChannel c f).loader = s.loader := rfl
@[simp] theorem State.mapChannel_event (c : ChannelId) (f : ChannelEngine → ChannelEngine) : (s.mapChannel c f).event = s.event := rfl
@[simp] theorem State.mapChannel_startedGather (c : ChannelId) (f : ChannelEngine → ChannelEngine) : (s.mapChannel c f).startedGather = s.startedGather := rfl
@[simp] theorem State.mapChannel_startedRead (c : ChannelId) (f : ChannelEngine → ChannelEngine) : (s.mapChannel c f).startedRead = s.startedRead := rfl
@[simp] theorem State.mapChannel_pending (c : ChannelId) (f : ChannelEngine → ChannelEngine) : (s.mapChannel c f).pending = s.pending := rfl

/-! ### mapTurn -/

@[simp] theorem State.mapTurn_pins (f : Turn → Turn) : (s.mapTurn f).pins = s.pins := rfl
@[simp] theorem State.mapTurn_host (f : Turn → Turn) : (s.mapTurn f).host = s.host := rfl
@[simp] theorem State.mapTurn_fetch (f : Turn → Turn) : (s.mapTurn f).fetch = s.fetch := rfl
@[simp] theorem State.mapTurn_poster (f : Turn → Turn) : (s.mapTurn f).poster = s.poster := rfl
@[simp] theorem State.mapTurn_orders (f : Turn → Turn) : (s.mapTurn f).orders = s.orders := rfl
@[simp] theorem State.mapTurn_reader (f : Turn → Turn) : (s.mapTurn f).reader = s.reader := rfl
@[simp] theorem State.mapTurn_pool (f : Turn → Turn) : (s.mapTurn f).pool = s.pool := rfl
@[simp] theorem State.mapTurn_channels (f : Turn → Turn) : (s.mapTurn f).channels = s.channels := rfl
@[simp] theorem State.mapTurn_devices (f : Turn → Turn) : (s.mapTurn f).devices = s.devices := rfl
@[simp] theorem State.mapTurn_zones (f : Turn → Turn) : (s.mapTurn f).zones = s.zones := rfl
@[simp] theorem State.mapTurn_loader (f : Turn → Turn) : (s.mapTurn f).loader = s.loader := rfl
@[simp] theorem State.mapTurn_event (f : Turn → Turn) : (s.mapTurn f).event = s.event := rfl
@[simp] theorem State.mapTurn_startedGather (f : Turn → Turn) : (s.mapTurn f).startedGather = s.startedGather := rfl
@[simp] theorem State.mapTurn_startedRead (f : Turn → Turn) : (s.mapTurn f).startedRead = s.startedRead := rfl
@[simp] theorem State.mapTurn_pending (f : Turn → Turn) : (s.mapTurn f).pending = s.pending := rfl

/-! ### setFault -/

@[simp] theorem State.setFault_pins (f : FaultFlag) : (s.setFault f).pins = s.pins := rfl
@[simp] theorem State.setFault_fetch (f : FaultFlag) : (s.setFault f).fetch = s.fetch := rfl
@[simp] theorem State.setFault_poster (f : FaultFlag) : (s.setFault f).poster = s.poster := rfl
@[simp] theorem State.setFault_orders (f : FaultFlag) : (s.setFault f).orders = s.orders := rfl
@[simp] theorem State.setFault_gather (f : FaultFlag) : (s.setFault f).gather = s.gather := rfl
@[simp] theorem State.setFault_reader (f : FaultFlag) : (s.setFault f).reader = s.reader := rfl
@[simp] theorem State.setFault_pool (f : FaultFlag) : (s.setFault f).pool = s.pool := rfl
@[simp] theorem State.setFault_channels (f : FaultFlag) : (s.setFault f).channels = s.channels := rfl
@[simp] theorem State.setFault_devices (f : FaultFlag) : (s.setFault f).devices = s.devices := rfl
@[simp] theorem State.setFault_zones (f : FaultFlag) : (s.setFault f).zones = s.zones := rfl
@[simp] theorem State.setFault_loader (f : FaultFlag) : (s.setFault f).loader = s.loader := rfl
@[simp] theorem State.setFault_event (f : FaultFlag) : (s.setFault f).event = s.event := rfl
@[simp] theorem State.setFault_startedGather (f : FaultFlag) : (s.setFault f).startedGather = s.startedGather := rfl
@[simp] theorem State.setFault_startedRead (f : FaultFlag) : (s.setFault f).startedRead = s.startedRead := rfl
@[simp] theorem State.setFault_pending (f : FaultFlag) : (s.setFault f).pending = s.pending := rfl

/-! ### setEngine -/

@[simp] theorem State.setEngine_pins (t : Option Transfer) : (s.setEngine t).pins = s.pins := rfl
@[simp] theorem State.setEngine_fetch (t : Option Transfer) : (s.setEngine t).fetch = s.fetch := rfl
@[simp] theorem State.setEngine_poster (t : Option Transfer) : (s.setEngine t).poster = s.poster := rfl
@[simp] theorem State.setEngine_orders (t : Option Transfer) : (s.setEngine t).orders = s.orders := rfl
@[simp] theorem State.setEngine_gather (t : Option Transfer) : (s.setEngine t).gather = s.gather := rfl
@[simp] theorem State.setEngine_reader (t : Option Transfer) : (s.setEngine t).reader = s.reader := rfl
@[simp] theorem State.setEngine_pool (t : Option Transfer) : (s.setEngine t).pool = s.pool := rfl
@[simp] theorem State.setEngine_channels (t : Option Transfer) : (s.setEngine t).channels = s.channels := rfl
@[simp] theorem State.setEngine_devices (t : Option Transfer) : (s.setEngine t).devices = s.devices := rfl
@[simp] theorem State.setEngine_zones (t : Option Transfer) : (s.setEngine t).zones = s.zones := rfl
@[simp] theorem State.setEngine_loader (t : Option Transfer) : (s.setEngine t).loader = s.loader := rfl
@[simp] theorem State.setEngine_event (t : Option Transfer) : (s.setEngine t).event = s.event := rfl
@[simp] theorem State.setEngine_startedGather (t : Option Transfer) : (s.setEngine t).startedGather = s.startedGather := rfl
@[simp] theorem State.setEngine_startedRead (t : Option Transfer) : (s.setEngine t).startedRead = s.startedRead := rfl
@[simp] theorem State.setEngine_pending (t : Option Transfer) : (s.setEngine t).pending = s.pending := rfl

/-! ### queueItem -/

@[simp] theorem State.queueItem_pins (d : DevicePos) (w : Work) : (s.queueItem d w).pins = s.pins := rfl
@[simp] theorem State.queueItem_host (d : DevicePos) (w : Work) : (s.queueItem d w).host = s.host := rfl
@[simp] theorem State.queueItem_fetch (d : DevicePos) (w : Work) : (s.queueItem d w).fetch = s.fetch := rfl
@[simp] theorem State.queueItem_poster (d : DevicePos) (w : Work) : (s.queueItem d w).poster = s.poster := rfl
@[simp] theorem State.queueItem_orders (d : DevicePos) (w : Work) : (s.queueItem d w).orders = s.orders := rfl
@[simp] theorem State.queueItem_gather (d : DevicePos) (w : Work) : (s.queueItem d w).gather = s.gather := rfl
@[simp] theorem State.queueItem_reader (d : DevicePos) (w : Work) : (s.queueItem d w).reader = s.reader := rfl
@[simp] theorem State.queueItem_pool (d : DevicePos) (w : Work) : (s.queueItem d w).pool = s.pool := rfl
@[simp] theorem State.queueItem_devices (d : DevicePos) (w : Work) : (s.queueItem d w).devices = s.devices := rfl
@[simp] theorem State.queueItem_zones (d : DevicePos) (w : Work) : (s.queueItem d w).zones = s.zones := rfl
@[simp] theorem State.queueItem_loader (d : DevicePos) (w : Work) : (s.queueItem d w).loader = s.loader := rfl
@[simp] theorem State.queueItem_event (d : DevicePos) (w : Work) : (s.queueItem d w).event = s.event := rfl
@[simp] theorem State.queueItem_startedGather (d : DevicePos) (w : Work) : (s.queueItem d w).startedGather = s.startedGather := rfl
@[simp] theorem State.queueItem_startedRead (d : DevicePos) (w : Work) : (s.queueItem d w).startedRead = s.startedRead := rfl
@[simp] theorem State.queueItem_pending (d : DevicePos) (w : Work) : (s.queueItem d w).pending = s.pending := rfl

/-! ### withdrawItems -/

@[simp] theorem State.withdrawItems_pins (d : DevicePos) : (s.withdrawItems d).pins = s.pins := rfl
@[simp] theorem State.withdrawItems_host (d : DevicePos) : (s.withdrawItems d).host = s.host := rfl
@[simp] theorem State.withdrawItems_fetch (d : DevicePos) : (s.withdrawItems d).fetch = s.fetch := rfl
@[simp] theorem State.withdrawItems_poster (d : DevicePos) : (s.withdrawItems d).poster = s.poster := rfl
@[simp] theorem State.withdrawItems_orders (d : DevicePos) : (s.withdrawItems d).orders = s.orders := rfl
@[simp] theorem State.withdrawItems_gather (d : DevicePos) : (s.withdrawItems d).gather = s.gather := rfl
@[simp] theorem State.withdrawItems_reader (d : DevicePos) : (s.withdrawItems d).reader = s.reader := rfl
@[simp] theorem State.withdrawItems_pool (d : DevicePos) : (s.withdrawItems d).pool = s.pool := rfl
@[simp] theorem State.withdrawItems_devices (d : DevicePos) : (s.withdrawItems d).devices = s.devices := rfl
@[simp] theorem State.withdrawItems_zones (d : DevicePos) : (s.withdrawItems d).zones = s.zones := rfl
@[simp] theorem State.withdrawItems_loader (d : DevicePos) : (s.withdrawItems d).loader = s.loader := rfl
@[simp] theorem State.withdrawItems_event (d : DevicePos) : (s.withdrawItems d).event = s.event := rfl
@[simp] theorem State.withdrawItems_startedGather (d : DevicePos) : (s.withdrawItems d).startedGather = s.startedGather := rfl
@[simp] theorem State.withdrawItems_startedRead (d : DevicePos) : (s.withdrawItems d).startedRead = s.startedRead := rfl
@[simp] theorem State.withdrawItems_pending (d : DevicePos) : (s.withdrawItems d).pending = s.pending := rfl

/-! ### withdrawWork -/

@[simp] theorem State.withdrawWork_pins (d : DevicePos) (w : Work) : (s.withdrawWork d w).pins = s.pins := rfl
@[simp] theorem State.withdrawWork_host (d : DevicePos) (w : Work) : (s.withdrawWork d w).host = s.host := rfl
@[simp] theorem State.withdrawWork_fetch (d : DevicePos) (w : Work) : (s.withdrawWork d w).fetch = s.fetch := rfl
@[simp] theorem State.withdrawWork_poster (d : DevicePos) (w : Work) : (s.withdrawWork d w).poster = s.poster := rfl
@[simp] theorem State.withdrawWork_orders (d : DevicePos) (w : Work) : (s.withdrawWork d w).orders = s.orders := rfl
@[simp] theorem State.withdrawWork_gather (d : DevicePos) (w : Work) : (s.withdrawWork d w).gather = s.gather := rfl
@[simp] theorem State.withdrawWork_reader (d : DevicePos) (w : Work) : (s.withdrawWork d w).reader = s.reader := rfl
@[simp] theorem State.withdrawWork_pool (d : DevicePos) (w : Work) : (s.withdrawWork d w).pool = s.pool := rfl
@[simp] theorem State.withdrawWork_devices (d : DevicePos) (w : Work) : (s.withdrawWork d w).devices = s.devices := rfl
@[simp] theorem State.withdrawWork_zones (d : DevicePos) (w : Work) : (s.withdrawWork d w).zones = s.zones := rfl
@[simp] theorem State.withdrawWork_loader (d : DevicePos) (w : Work) : (s.withdrawWork d w).loader = s.loader := rfl
@[simp] theorem State.withdrawWork_event (d : DevicePos) (w : Work) : (s.withdrawWork d w).event = s.event := rfl
@[simp] theorem State.withdrawWork_startedGather (d : DevicePos) (w : Work) : (s.withdrawWork d w).startedGather = s.startedGather := rfl
@[simp] theorem State.withdrawWork_startedRead (d : DevicePos) (w : Work) : (s.withdrawWork d w).startedRead = s.startedRead := rfl
@[simp] theorem State.withdrawWork_pending (d : DevicePos) (w : Work) : (s.withdrawWork d w).pending = s.pending := rfl

/-! ### dropFrame -/

@[simp] theorem State.dropFrame_pins (d : DevicePos) : (s.dropFrame d).pins = s.pins := rfl
@[simp] theorem State.dropFrame_host (d : DevicePos) : (s.dropFrame d).host = s.host := rfl
@[simp] theorem State.dropFrame_fetch (d : DevicePos) : (s.dropFrame d).fetch = s.fetch := rfl
@[simp] theorem State.dropFrame_poster (d : DevicePos) : (s.dropFrame d).poster = s.poster := rfl
@[simp] theorem State.dropFrame_orders (d : DevicePos) : (s.dropFrame d).orders = s.orders := rfl
@[simp] theorem State.dropFrame_gather (d : DevicePos) : (s.dropFrame d).gather = s.gather := rfl
@[simp] theorem State.dropFrame_reader (d : DevicePos) : (s.dropFrame d).reader = s.reader := rfl
@[simp] theorem State.dropFrame_pool (d : DevicePos) : (s.dropFrame d).pool = s.pool := rfl
@[simp] theorem State.dropFrame_devices (d : DevicePos) : (s.dropFrame d).devices = s.devices := rfl
@[simp] theorem State.dropFrame_zones (d : DevicePos) : (s.dropFrame d).zones = s.zones := rfl
@[simp] theorem State.dropFrame_loader (d : DevicePos) : (s.dropFrame d).loader = s.loader := rfl
@[simp] theorem State.dropFrame_event (d : DevicePos) : (s.dropFrame d).event = s.event := rfl
@[simp] theorem State.dropFrame_startedGather (d : DevicePos) : (s.dropFrame d).startedGather = s.startedGather := rfl
@[simp] theorem State.dropFrame_startedRead (d : DevicePos) : (s.dropFrame d).startedRead = s.startedRead := rfl
@[simp] theorem State.dropFrame_pending (d : DevicePos) : (s.dropFrame d).pending = s.pending := rfl

/-! ### joinStarted -/

@[simp] theorem State.joinStarted_pins : (s.joinStarted).pins = s.pins := rfl
@[simp] theorem State.joinStarted_host : (s.joinStarted).host = s.host := rfl
@[simp] theorem State.joinStarted_fetch : (s.joinStarted).fetch = s.fetch := rfl
@[simp] theorem State.joinStarted_poster : (s.joinStarted).poster = s.poster := rfl
@[simp] theorem State.joinStarted_gather : (s.joinStarted).gather = s.gather := rfl
@[simp] theorem State.joinStarted_reader : (s.joinStarted).reader = s.reader := rfl
@[simp] theorem State.joinStarted_pool : (s.joinStarted).pool = s.pool := rfl
@[simp] theorem State.joinStarted_channels : (s.joinStarted).channels = s.channels := rfl
@[simp] theorem State.joinStarted_devices : (s.joinStarted).devices = s.devices := rfl
@[simp] theorem State.joinStarted_zones : (s.joinStarted).zones = s.zones := rfl
@[simp] theorem State.joinStarted_loader : (s.joinStarted).loader = s.loader := rfl
@[simp] theorem State.joinStarted_event : (s.joinStarted).event = s.event := rfl
@[simp] theorem State.joinStarted_pending : (s.joinStarted).pending = s.pending := rfl

/-! ### newEvent -/

@[simp] theorem State.newEvent_pins : (s.newEvent).pins = s.pins := rfl
@[simp] theorem State.newEvent_host : (s.newEvent).host = s.host := rfl
@[simp] theorem State.newEvent_fetch : (s.newEvent).fetch = s.fetch := rfl
@[simp] theorem State.newEvent_poster : (s.newEvent).poster = s.poster := rfl
@[simp] theorem State.newEvent_orders : (s.newEvent).orders = s.orders := rfl
@[simp] theorem State.newEvent_gather : (s.newEvent).gather = s.gather := rfl
@[simp] theorem State.newEvent_reader : (s.newEvent).reader = s.reader := rfl
@[simp] theorem State.newEvent_pool : (s.newEvent).pool = s.pool := rfl
@[simp] theorem State.newEvent_channels : (s.newEvent).channels = s.channels := rfl
@[simp] theorem State.newEvent_devices : (s.newEvent).devices = s.devices := rfl
@[simp] theorem State.newEvent_zones : (s.newEvent).zones = s.zones := rfl
@[simp] theorem State.newEvent_loader : (s.newEvent).loader = s.loader := rfl
@[simp] theorem State.newEvent_pending : (s.newEvent).pending = s.pending := rfl

/-! ### updateIntreq -/

@[simp] theorem State.updateIntreq_host : (s.updateIntreq).host = s.host := rfl
@[simp] theorem State.updateIntreq_fetch : (s.updateIntreq).fetch = s.fetch := rfl
@[simp] theorem State.updateIntreq_poster : (s.updateIntreq).poster = s.poster := rfl
@[simp] theorem State.updateIntreq_orders : (s.updateIntreq).orders = s.orders := rfl
@[simp] theorem State.updateIntreq_gather : (s.updateIntreq).gather = s.gather := rfl
@[simp] theorem State.updateIntreq_reader : (s.updateIntreq).reader = s.reader := rfl
@[simp] theorem State.updateIntreq_pool : (s.updateIntreq).pool = s.pool := rfl
@[simp] theorem State.updateIntreq_channels : (s.updateIntreq).channels = s.channels := rfl
@[simp] theorem State.updateIntreq_devices : (s.updateIntreq).devices = s.devices := rfl
@[simp] theorem State.updateIntreq_zones : (s.updateIntreq).zones = s.zones := rfl
@[simp] theorem State.updateIntreq_loader : (s.updateIntreq).loader = s.loader := rfl
@[simp] theorem State.updateIntreq_event : (s.updateIntreq).event = s.event := rfl
@[simp] theorem State.updateIntreq_startedGather : (s.updateIntreq).startedGather = s.startedGather := rfl
@[simp] theorem State.updateIntreq_startedRead : (s.updateIntreq).startedRead = s.startedRead := rfl
@[simp] theorem State.updateIntreq_pending : (s.updateIntreq).pending = s.pending := rfl

/-! ### wake -/

@[simp] theorem State.wake_pins (d : DevicePos) : (s.wake d).pins = s.pins := rfl
@[simp] theorem State.wake_host (d : DevicePos) : (s.wake d).host = s.host := rfl
@[simp] theorem State.wake_fetch (d : DevicePos) : (s.wake d).fetch = s.fetch := rfl
@[simp] theorem State.wake_poster (d : DevicePos) : (s.wake d).poster = s.poster := rfl
@[simp] theorem State.wake_orders (d : DevicePos) : (s.wake d).orders = s.orders := rfl
@[simp] theorem State.wake_gather (d : DevicePos) : (s.wake d).gather = s.gather := rfl
@[simp] theorem State.wake_reader (d : DevicePos) : (s.wake d).reader = s.reader := rfl
@[simp] theorem State.wake_pool (d : DevicePos) : (s.wake d).pool = s.pool := rfl
@[simp] theorem State.wake_zones (d : DevicePos) : (s.wake d).zones = s.zones := rfl
@[simp] theorem State.wake_loader (d : DevicePos) : (s.wake d).loader = s.loader := rfl
@[simp] theorem State.wake_event (d : DevicePos) : (s.wake d).event = s.event := rfl
@[simp] theorem State.wake_startedGather (d : DevicePos) : (s.wake d).startedGather = s.startedGather := rfl
@[simp] theorem State.wake_startedRead (d : DevicePos) : (s.wake d).startedRead = s.startedRead := rfl
@[simp] theorem State.wake_pending (d : DevicePos) : (s.wake d).pending = s.pending := rfl

/-! ### deviceBack -/

@[simp] theorem State.deviceBack_pins (d : DevicePos) : (s.deviceBack d).pins = s.pins := rfl
@[simp] theorem State.deviceBack_host (d : DevicePos) : (s.deviceBack d).host = s.host := rfl
@[simp] theorem State.deviceBack_fetch (d : DevicePos) : (s.deviceBack d).fetch = s.fetch := rfl
@[simp] theorem State.deviceBack_poster (d : DevicePos) : (s.deviceBack d).poster = s.poster := rfl
@[simp] theorem State.deviceBack_orders (d : DevicePos) : (s.deviceBack d).orders = s.orders := rfl
@[simp] theorem State.deviceBack_gather (d : DevicePos) : (s.deviceBack d).gather = s.gather := rfl
@[simp] theorem State.deviceBack_pool (d : DevicePos) : (s.deviceBack d).pool = s.pool := rfl
@[simp] theorem State.deviceBack_channels (d : DevicePos) : (s.deviceBack d).channels = s.channels := rfl
@[simp] theorem State.deviceBack_devices (d : DevicePos) : (s.deviceBack d).devices = s.devices := rfl
@[simp] theorem State.deviceBack_zones (d : DevicePos) : (s.deviceBack d).zones = s.zones := rfl
@[simp] theorem State.deviceBack_loader (d : DevicePos) : (s.deviceBack d).loader = s.loader := rfl
@[simp] theorem State.deviceBack_event (d : DevicePos) : (s.deviceBack d).event = s.event := rfl
@[simp] theorem State.deviceBack_startedGather (d : DevicePos) : (s.deviceBack d).startedGather = s.startedGather := rfl
@[simp] theorem State.deviceBack_startedRead (d : DevicePos) : (s.deviceBack d).startedRead = s.startedRead := rfl
@[simp] theorem State.deviceBack_pending (d : DevicePos) : (s.deviceBack d).pending = s.pending := rfl

/-! ### setGeometry -/

@[simp] theorem State.setGeometry_pins (d : DevicePos) (g : Option Geometry) : (s.setGeometry d g).pins = s.pins := rfl
@[simp] theorem State.setGeometry_host (d : DevicePos) (g : Option Geometry) : (s.setGeometry d g).host = s.host := rfl
@[simp] theorem State.setGeometry_fetch (d : DevicePos) (g : Option Geometry) : (s.setGeometry d g).fetch = s.fetch := rfl
@[simp] theorem State.setGeometry_poster (d : DevicePos) (g : Option Geometry) : (s.setGeometry d g).poster = s.poster := rfl
@[simp] theorem State.setGeometry_orders (d : DevicePos) (g : Option Geometry) : (s.setGeometry d g).orders = s.orders := rfl
@[simp] theorem State.setGeometry_gather (d : DevicePos) (g : Option Geometry) : (s.setGeometry d g).gather = s.gather := rfl
@[simp] theorem State.setGeometry_reader (d : DevicePos) (g : Option Geometry) : (s.setGeometry d g).reader = s.reader := rfl
@[simp] theorem State.setGeometry_pool (d : DevicePos) (g : Option Geometry) : (s.setGeometry d g).pool = s.pool := rfl
@[simp] theorem State.setGeometry_channels (d : DevicePos) (g : Option Geometry) : (s.setGeometry d g).channels = s.channels := rfl
@[simp] theorem State.setGeometry_devices (d : DevicePos) (g : Option Geometry) : (s.setGeometry d g).devices = s.devices := rfl
@[simp] theorem State.setGeometry_zones (d : DevicePos) (g : Option Geometry) : (s.setGeometry d g).zones = s.zones := rfl
@[simp] theorem State.setGeometry_event (d : DevicePos) (g : Option Geometry) : (s.setGeometry d g).event = s.event := rfl
@[simp] theorem State.setGeometry_startedGather (d : DevicePos) (g : Option Geometry) : (s.setGeometry d g).startedGather = s.startedGather := rfl
@[simp] theorem State.setGeometry_startedRead (d : DevicePos) (g : Option Geometry) : (s.setGeometry d g).startedRead = s.startedRead := rfl
@[simp] theorem State.setGeometry_pending (d : DevicePos) (g : Option Geometry) : (s.setGeometry d g).pending = s.pending := rfl

/-! ### releaseTurn -/

@[simp] theorem State.releaseTurn_pins : (s.releaseTurn).pins = s.pins := rfl
@[simp] theorem State.releaseTurn_host : (s.releaseTurn).host = s.host := rfl
@[simp] theorem State.releaseTurn_fetch : (s.releaseTurn).fetch = s.fetch := rfl
@[simp] theorem State.releaseTurn_poster : (s.releaseTurn).poster = s.poster := rfl
@[simp] theorem State.releaseTurn_orders : (s.releaseTurn).orders = s.orders := rfl
@[simp] theorem State.releaseTurn_reader : (s.releaseTurn).reader = s.reader := rfl
@[simp] theorem State.releaseTurn_pool : (s.releaseTurn).pool = s.pool := rfl
@[simp] theorem State.releaseTurn_channels : (s.releaseTurn).channels = s.channels := rfl
@[simp] theorem State.releaseTurn_devices : (s.releaseTurn).devices = s.devices := rfl
@[simp] theorem State.releaseTurn_zones : (s.releaseTurn).zones = s.zones := rfl
@[simp] theorem State.releaseTurn_loader : (s.releaseTurn).loader = s.loader := rfl
@[simp] theorem State.releaseTurn_event : (s.releaseTurn).event = s.event := rfl
@[simp] theorem State.releaseTurn_startedGather : (s.releaseTurn).startedGather = s.startedGather := rfl
@[simp] theorem State.releaseTurn_startedRead : (s.releaseTurn).startedRead = s.startedRead := rfl
@[simp] theorem State.releaseTurn_pending : (s.releaseTurn).pending = s.pending := rfl

/-! ### allocate -/

@[simp] theorem State.allocate_pins (b : BufferId) (d : DevicePos) (p : Nat) : (s.allocate b d p).pins = s.pins := rfl
@[simp] theorem State.allocate_host (b : BufferId) (d : DevicePos) (p : Nat) : (s.allocate b d p).host = s.host := rfl
@[simp] theorem State.allocate_fetch (b : BufferId) (d : DevicePos) (p : Nat) : (s.allocate b d p).fetch = s.fetch := rfl
@[simp] theorem State.allocate_poster (b : BufferId) (d : DevicePos) (p : Nat) : (s.allocate b d p).poster = s.poster := rfl
@[simp] theorem State.allocate_orders (b : BufferId) (d : DevicePos) (p : Nat) : (s.allocate b d p).orders = s.orders := rfl
@[simp] theorem State.allocate_gather (b : BufferId) (d : DevicePos) (p : Nat) : (s.allocate b d p).gather = s.gather := rfl
@[simp] theorem State.allocate_reader (b : BufferId) (d : DevicePos) (p : Nat) : (s.allocate b d p).reader = s.reader := rfl
@[simp] theorem State.allocate_channels (b : BufferId) (d : DevicePos) (p : Nat) : (s.allocate b d p).channels = s.channels := rfl
@[simp] theorem State.allocate_devices (b : BufferId) (d : DevicePos) (p : Nat) : (s.allocate b d p).devices = s.devices := rfl
@[simp] theorem State.allocate_zones (b : BufferId) (d : DevicePos) (p : Nat) : (s.allocate b d p).zones = s.zones := rfl
@[simp] theorem State.allocate_loader (b : BufferId) (d : DevicePos) (p : Nat) : (s.allocate b d p).loader = s.loader := rfl
@[simp] theorem State.allocate_event (b : BufferId) (d : DevicePos) (p : Nat) : (s.allocate b d p).event = s.event := rfl
@[simp] theorem State.allocate_startedGather (b : BufferId) (d : DevicePos) (p : Nat) : (s.allocate b d p).startedGather = s.startedGather := rfl
@[simp] theorem State.allocate_startedRead (b : BufferId) (d : DevicePos) (p : Nat) : (s.allocate b d p).startedRead = s.startedRead := rfl
@[simp] theorem State.allocate_pending (b : BufferId) (d : DevicePos) (p : Nat) : (s.allocate b d p).pending = s.pending := rfl

/-! ### requestMaster -/

@[simp] theorem State.requestMaster_pins (j : Job) (r : List Byte) : (s.requestMaster j r).pins = s.pins := rfl
@[simp] theorem State.requestMaster_fetch (j : Job) (r : List Byte) : (s.requestMaster j r).fetch = s.fetch := rfl
@[simp] theorem State.requestMaster_poster (j : Job) (r : List Byte) : (s.requestMaster j r).poster = s.poster := rfl
@[simp] theorem State.requestMaster_orders (j : Job) (r : List Byte) : (s.requestMaster j r).orders = s.orders := rfl
@[simp] theorem State.requestMaster_gather (j : Job) (r : List Byte) : (s.requestMaster j r).gather = s.gather := rfl
@[simp] theorem State.requestMaster_reader (j : Job) (r : List Byte) : (s.requestMaster j r).reader = s.reader := rfl
@[simp] theorem State.requestMaster_pool (j : Job) (r : List Byte) : (s.requestMaster j r).pool = s.pool := rfl
@[simp] theorem State.requestMaster_channels (j : Job) (r : List Byte) : (s.requestMaster j r).channels = s.channels := rfl
@[simp] theorem State.requestMaster_devices (j : Job) (r : List Byte) : (s.requestMaster j r).devices = s.devices := rfl
@[simp] theorem State.requestMaster_zones (j : Job) (r : List Byte) : (s.requestMaster j r).zones = s.zones := rfl
@[simp] theorem State.requestMaster_loader (j : Job) (r : List Byte) : (s.requestMaster j r).loader = s.loader := rfl
@[simp] theorem State.requestMaster_event (j : Job) (r : List Byte) : (s.requestMaster j r).event = s.event := rfl
@[simp] theorem State.requestMaster_startedGather (j : Job) (r : List Byte) : (s.requestMaster j r).startedGather = s.startedGather := rfl
@[simp] theorem State.requestMaster_startedRead (j : Job) (r : List Byte) : (s.requestMaster j r).startedRead = s.startedRead := rfl
@[simp] theorem State.requestMaster_pending (j : Job) (r : List Byte) : (s.requestMaster j r).pending = s.pending := rfl

/-! ### giveUp -/

@[simp] theorem State.giveUp_pins (j : Job) : (s.giveUp j).pins = s.pins := rfl
@[simp] theorem State.giveUp_fetch (j : Job) : (s.giveUp j).fetch = s.fetch := rfl
@[simp] theorem State.giveUp_poster (j : Job) : (s.giveUp j).poster = s.poster := rfl
@[simp] theorem State.giveUp_orders (j : Job) : (s.giveUp j).orders = s.orders := rfl
@[simp] theorem State.giveUp_gather (j : Job) : (s.giveUp j).gather = s.gather := rfl
@[simp] theorem State.giveUp_reader (j : Job) : (s.giveUp j).reader = s.reader := rfl
@[simp] theorem State.giveUp_pool (j : Job) : (s.giveUp j).pool = s.pool := rfl
@[simp] theorem State.giveUp_channels (j : Job) : (s.giveUp j).channels = s.channels := rfl
@[simp] theorem State.giveUp_devices (j : Job) : (s.giveUp j).devices = s.devices := rfl
@[simp] theorem State.giveUp_zones (j : Job) : (s.giveUp j).zones = s.zones := rfl
@[simp] theorem State.giveUp_loader (j : Job) : (s.giveUp j).loader = s.loader := rfl
@[simp] theorem State.giveUp_event (j : Job) : (s.giveUp j).event = s.event := rfl
@[simp] theorem State.giveUp_startedGather (j : Job) : (s.giveUp j).startedGather = s.startedGather := rfl
@[simp] theorem State.giveUp_startedRead (j : Job) : (s.giveUp j).startedRead = s.startedRead := rfl
@[simp] theorem State.giveUp_pending (j : Job) : (s.giveUp j).pending = s.pending := rfl

/-! ### leaveContributors -/

@[simp] theorem State.leaveContributors_pins (e : EntryId) : (s.leaveContributors e).pins = s.pins := rfl
@[simp] theorem State.leaveContributors_host (e : EntryId) : (s.leaveContributors e).host = s.host := rfl
@[simp] theorem State.leaveContributors_fetch (e : EntryId) : (s.leaveContributors e).fetch = s.fetch := rfl
@[simp] theorem State.leaveContributors_poster (e : EntryId) : (s.leaveContributors e).poster = s.poster := rfl
@[simp] theorem State.leaveContributors_orders (e : EntryId) : (s.leaveContributors e).orders = s.orders := rfl
@[simp] theorem State.leaveContributors_gather (e : EntryId) : (s.leaveContributors e).gather = s.gather := rfl
@[simp] theorem State.leaveContributors_reader (e : EntryId) : (s.leaveContributors e).reader = s.reader := rfl
@[simp] theorem State.leaveContributors_channels (e : EntryId) : (s.leaveContributors e).channels = s.channels := rfl
@[simp] theorem State.leaveContributors_devices (e : EntryId) : (s.leaveContributors e).devices = s.devices := rfl
@[simp] theorem State.leaveContributors_zones (e : EntryId) : (s.leaveContributors e).zones = s.zones := rfl
@[simp] theorem State.leaveContributors_loader (e : EntryId) : (s.leaveContributors e).loader = s.loader := rfl
@[simp] theorem State.leaveContributors_event (e : EntryId) : (s.leaveContributors e).event = s.event := rfl
@[simp] theorem State.leaveContributors_startedGather (e : EntryId) : (s.leaveContributors e).startedGather = s.startedGather := rfl
@[simp] theorem State.leaveContributors_startedRead (e : EntryId) : (s.leaveContributors e).startedRead = s.startedRead := rfl
@[simp] theorem State.leaveContributors_pending (e : EntryId) : (s.leaveContributors e).pending = s.pending := rfl

/-! ### requestBuffer -/

@[simp] theorem State.requestBuffer_pins (d : DevicePos) (p : Nat) : (s.requestBuffer d p).pins = s.pins := rfl
@[simp] theorem State.requestBuffer_host (d : DevicePos) (p : Nat) : (s.requestBuffer d p).host = s.host := rfl
@[simp] theorem State.requestBuffer_fetch (d : DevicePos) (p : Nat) : (s.requestBuffer d p).fetch = s.fetch := rfl
@[simp] theorem State.requestBuffer_poster (d : DevicePos) (p : Nat) : (s.requestBuffer d p).poster = s.poster := rfl
@[simp] theorem State.requestBuffer_orders (d : DevicePos) (p : Nat) : (s.requestBuffer d p).orders = s.orders := rfl
@[simp] theorem State.requestBuffer_gather (d : DevicePos) (p : Nat) : (s.requestBuffer d p).gather = s.gather := rfl
@[simp] theorem State.requestBuffer_reader (d : DevicePos) (p : Nat) : (s.requestBuffer d p).reader = s.reader := rfl
@[simp] theorem State.requestBuffer_channels (d : DevicePos) (p : Nat) : (s.requestBuffer d p).channels = s.channels := rfl
@[simp] theorem State.requestBuffer_devices (d : DevicePos) (p : Nat) : (s.requestBuffer d p).devices = s.devices := rfl
@[simp] theorem State.requestBuffer_zones (d : DevicePos) (p : Nat) : (s.requestBuffer d p).zones = s.zones := rfl
@[simp] theorem State.requestBuffer_loader (d : DevicePos) (p : Nat) : (s.requestBuffer d p).loader = s.loader := rfl
@[simp] theorem State.requestBuffer_event (d : DevicePos) (p : Nat) : (s.requestBuffer d p).event = s.event := rfl
@[simp] theorem State.requestBuffer_startedGather (d : DevicePos) (p : Nat) : (s.requestBuffer d p).startedGather = s.startedGather := rfl
@[simp] theorem State.requestBuffer_startedRead (d : DevicePos) (p : Nat) : (s.requestBuffer d p).startedRead = s.startedRead := rfl
@[simp] theorem State.requestBuffer_pending (d : DevicePos) (p : Nat) : (s.requestBuffer d p).pending = s.pending := rfl

/-! ### leaveQueue -/

@[simp] theorem State.leaveQueue_pins (e : EntryId) : (s.leaveQueue e).pins = s.pins := rfl
@[simp] theorem State.leaveQueue_host (e : EntryId) : (s.leaveQueue e).host = s.host := rfl
@[simp] theorem State.leaveQueue_fetch (e : EntryId) : (s.leaveQueue e).fetch = s.fetch := rfl
@[simp] theorem State.leaveQueue_poster (e : EntryId) : (s.leaveQueue e).poster = s.poster := rfl
@[simp] theorem State.leaveQueue_reader (e : EntryId) : (s.leaveQueue e).reader = s.reader := rfl
@[simp] theorem State.leaveQueue_pool (e : EntryId) : (s.leaveQueue e).pool = s.pool := rfl
@[simp] theorem State.leaveQueue_channels (e : EntryId) : (s.leaveQueue e).channels = s.channels := rfl
@[simp] theorem State.leaveQueue_devices (e : EntryId) : (s.leaveQueue e).devices = s.devices := rfl
@[simp] theorem State.leaveQueue_zones (e : EntryId) : (s.leaveQueue e).zones = s.zones := rfl
@[simp] theorem State.leaveQueue_loader (e : EntryId) : (s.leaveQueue e).loader = s.loader := rfl
@[simp] theorem State.leaveQueue_event (e : EntryId) : (s.leaveQueue e).event = s.event := rfl
@[simp] theorem State.leaveQueue_startedRead (e : EntryId) : (s.leaveQueue e).startedRead = s.startedRead := rfl
@[simp] theorem State.leaveQueue_pending (e : EntryId) : (s.leaveQueue e).pending = s.pending := rfl

/-! ### beginTurn -/

@[simp] theorem State.beginTurn_pins (e : EntryId) (w : TurnWork) : (s.beginTurn e w).pins = s.pins := rfl
@[simp] theorem State.beginTurn_host (e : EntryId) (w : TurnWork) : (s.beginTurn e w).host = s.host := rfl
@[simp] theorem State.beginTurn_fetch (e : EntryId) (w : TurnWork) : (s.beginTurn e w).fetch = s.fetch := rfl
@[simp] theorem State.beginTurn_poster (e : EntryId) (w : TurnWork) : (s.beginTurn e w).poster = s.poster := rfl
@[simp] theorem State.beginTurn_orders (e : EntryId) (w : TurnWork) : (s.beginTurn e w).orders = s.orders := rfl
@[simp] theorem State.beginTurn_reader (e : EntryId) (w : TurnWork) : (s.beginTurn e w).reader = s.reader := rfl
@[simp] theorem State.beginTurn_pool (e : EntryId) (w : TurnWork) : (s.beginTurn e w).pool = s.pool := rfl
@[simp] theorem State.beginTurn_channels (e : EntryId) (w : TurnWork) : (s.beginTurn e w).channels = s.channels := rfl
@[simp] theorem State.beginTurn_devices (e : EntryId) (w : TurnWork) : (s.beginTurn e w).devices = s.devices := rfl
@[simp] theorem State.beginTurn_zones (e : EntryId) (w : TurnWork) : (s.beginTurn e w).zones = s.zones := rfl
@[simp] theorem State.beginTurn_loader (e : EntryId) (w : TurnWork) : (s.beginTurn e w).loader = s.loader := rfl
@[simp] theorem State.beginTurn_event (e : EntryId) (w : TurnWork) : (s.beginTurn e w).event = s.event := rfl
@[simp] theorem State.beginTurn_startedGather (e : EntryId) (w : TurnWork) : (s.beginTurn e w).startedGather = s.startedGather := rfl
@[simp] theorem State.beginTurn_startedRead (e : EntryId) (w : TurnWork) : (s.beginTurn e w).startedRead = s.startedRead := rfl
@[simp] theorem State.beginTurn_pending (e : EntryId) (w : TurnWork) : (s.beginTurn e w).pending = s.pending := rfl

/-! ### setActive -/

@[simp] theorem State.setActive_pins (a : Option ActiveRead) : (s.setActive a).pins = s.pins := rfl
@[simp] theorem State.setActive_host (a : Option ActiveRead) : (s.setActive a).host = s.host := rfl
@[simp] theorem State.setActive_fetch (a : Option ActiveRead) : (s.setActive a).fetch = s.fetch := rfl
@[simp] theorem State.setActive_poster (a : Option ActiveRead) : (s.setActive a).poster = s.poster := rfl
@[simp] theorem State.setActive_orders (a : Option ActiveRead) : (s.setActive a).orders = s.orders := rfl
@[simp] theorem State.setActive_gather (a : Option ActiveRead) : (s.setActive a).gather = s.gather := rfl
@[simp] theorem State.setActive_pool (a : Option ActiveRead) : (s.setActive a).pool = s.pool := rfl
@[simp] theorem State.setActive_channels (a : Option ActiveRead) : (s.setActive a).channels = s.channels := rfl
@[simp] theorem State.setActive_devices (a : Option ActiveRead) : (s.setActive a).devices = s.devices := rfl
@[simp] theorem State.setActive_zones (a : Option ActiveRead) : (s.setActive a).zones = s.zones := rfl
@[simp] theorem State.setActive_loader (a : Option ActiveRead) : (s.setActive a).loader = s.loader := rfl
@[simp] theorem State.setActive_event (a : Option ActiveRead) : (s.setActive a).event = s.event := rfl
@[simp] theorem State.setActive_startedGather (a : Option ActiveRead) : (s.setActive a).startedGather = s.startedGather := rfl
@[simp] theorem State.setActive_startedRead (a : Option ActiveRead) : (s.setActive a).startedRead = s.startedRead := rfl
@[simp] theorem State.setActive_pending (a : Option ActiveRead) : (s.setActive a).pending = s.pending := rfl

/-! ### removeItem -/

@[simp] theorem State.removeItem_pins (c : ChannelId) (i : WorkItem) : (s.removeItem c i).pins = s.pins := rfl
@[simp] theorem State.removeItem_host (c : ChannelId) (i : WorkItem) : (s.removeItem c i).host = s.host := rfl
@[simp] theorem State.removeItem_fetch (c : ChannelId) (i : WorkItem) : (s.removeItem c i).fetch = s.fetch := rfl
@[simp] theorem State.removeItem_poster (c : ChannelId) (i : WorkItem) : (s.removeItem c i).poster = s.poster := rfl
@[simp] theorem State.removeItem_orders (c : ChannelId) (i : WorkItem) : (s.removeItem c i).orders = s.orders := rfl
@[simp] theorem State.removeItem_gather (c : ChannelId) (i : WorkItem) : (s.removeItem c i).gather = s.gather := rfl
@[simp] theorem State.removeItem_reader (c : ChannelId) (i : WorkItem) : (s.removeItem c i).reader = s.reader := rfl
@[simp] theorem State.removeItem_pool (c : ChannelId) (i : WorkItem) : (s.removeItem c i).pool = s.pool := rfl
@[simp] theorem State.removeItem_devices (c : ChannelId) (i : WorkItem) : (s.removeItem c i).devices = s.devices := rfl
@[simp] theorem State.removeItem_zones (c : ChannelId) (i : WorkItem) : (s.removeItem c i).zones = s.zones := rfl
@[simp] theorem State.removeItem_loader (c : ChannelId) (i : WorkItem) : (s.removeItem c i).loader = s.loader := rfl
@[simp] theorem State.removeItem_event (c : ChannelId) (i : WorkItem) : (s.removeItem c i).event = s.event := rfl
@[simp] theorem State.removeItem_startedGather (c : ChannelId) (i : WorkItem) : (s.removeItem c i).startedGather = s.startedGather := rfl
@[simp] theorem State.removeItem_startedRead (c : ChannelId) (i : WorkItem) : (s.removeItem c i).startedRead = s.startedRead := rfl
@[simp] theorem State.removeItem_pending (c : ChannelId) (i : WorkItem) : (s.removeItem c i).pending = s.pending := rfl

/-! ### grantItem -/

@[simp] theorem State.grantItem_pins (c : ChannelId) (i : WorkItem) : (s.grantItem c i).pins = s.pins := rfl
@[simp] theorem State.grantItem_host (c : ChannelId) (i : WorkItem) : (s.grantItem c i).host = s.host := rfl
@[simp] theorem State.grantItem_fetch (c : ChannelId) (i : WorkItem) : (s.grantItem c i).fetch = s.fetch := rfl
@[simp] theorem State.grantItem_poster (c : ChannelId) (i : WorkItem) : (s.grantItem c i).poster = s.poster := rfl
@[simp] theorem State.grantItem_orders (c : ChannelId) (i : WorkItem) : (s.grantItem c i).orders = s.orders := rfl
@[simp] theorem State.grantItem_gather (c : ChannelId) (i : WorkItem) : (s.grantItem c i).gather = s.gather := rfl
@[simp] theorem State.grantItem_reader (c : ChannelId) (i : WorkItem) : (s.grantItem c i).reader = s.reader := rfl
@[simp] theorem State.grantItem_pool (c : ChannelId) (i : WorkItem) : (s.grantItem c i).pool = s.pool := rfl
@[simp] theorem State.grantItem_devices (c : ChannelId) (i : WorkItem) : (s.grantItem c i).devices = s.devices := rfl
@[simp] theorem State.grantItem_zones (c : ChannelId) (i : WorkItem) : (s.grantItem c i).zones = s.zones := rfl
@[simp] theorem State.grantItem_loader (c : ChannelId) (i : WorkItem) : (s.grantItem c i).loader = s.loader := rfl
@[simp] theorem State.grantItem_event (c : ChannelId) (i : WorkItem) : (s.grantItem c i).event = s.event := rfl
@[simp] theorem State.grantItem_startedGather (c : ChannelId) (i : WorkItem) : (s.grantItem c i).startedGather = s.startedGather := rfl
@[simp] theorem State.grantItem_startedRead (c : ChannelId) (i : WorkItem) : (s.grantItem c i).startedRead = s.startedRead := rfl
@[simp] theorem State.grantItem_pending (c : ChannelId) (i : WorkItem) : (s.grantItem c i).pending = s.pending := rfl

/-! ### beginFrame -/

@[simp] theorem State.beginFrame_pins (c : ChannelId) (d : DevicePos) (x : FrameContent) : (s.beginFrame c d x).pins = s.pins := rfl
@[simp] theorem State.beginFrame_host (c : ChannelId) (d : DevicePos) (x : FrameContent) : (s.beginFrame c d x).host = s.host := rfl
@[simp] theorem State.beginFrame_fetch (c : ChannelId) (d : DevicePos) (x : FrameContent) : (s.beginFrame c d x).fetch = s.fetch := rfl
@[simp] theorem State.beginFrame_poster (c : ChannelId) (d : DevicePos) (x : FrameContent) : (s.beginFrame c d x).poster = s.poster := rfl
@[simp] theorem State.beginFrame_orders (c : ChannelId) (d : DevicePos) (x : FrameContent) : (s.beginFrame c d x).orders = s.orders := rfl
@[simp] theorem State.beginFrame_gather (c : ChannelId) (d : DevicePos) (x : FrameContent) : (s.beginFrame c d x).gather = s.gather := rfl
@[simp] theorem State.beginFrame_reader (c : ChannelId) (d : DevicePos) (x : FrameContent) : (s.beginFrame c d x).reader = s.reader := rfl
@[simp] theorem State.beginFrame_pool (c : ChannelId) (d : DevicePos) (x : FrameContent) : (s.beginFrame c d x).pool = s.pool := rfl
@[simp] theorem State.beginFrame_devices (c : ChannelId) (d : DevicePos) (x : FrameContent) : (s.beginFrame c d x).devices = s.devices := rfl
@[simp] theorem State.beginFrame_zones (c : ChannelId) (d : DevicePos) (x : FrameContent) : (s.beginFrame c d x).zones = s.zones := rfl
@[simp] theorem State.beginFrame_loader (c : ChannelId) (d : DevicePos) (x : FrameContent) : (s.beginFrame c d x).loader = s.loader := rfl
@[simp] theorem State.beginFrame_event (c : ChannelId) (d : DevicePos) (x : FrameContent) : (s.beginFrame c d x).event = s.event := rfl
@[simp] theorem State.beginFrame_startedGather (c : ChannelId) (d : DevicePos) (x : FrameContent) : (s.beginFrame c d x).startedGather = s.startedGather := rfl
@[simp] theorem State.beginFrame_startedRead (c : ChannelId) (d : DevicePos) (x : FrameContent) : (s.beginFrame c d x).startedRead = s.startedRead := rfl
@[simp] theorem State.beginFrame_pending (c : ChannelId) (d : DevicePos) (x : FrameContent) : (s.beginFrame c d x).pending = s.pending := rfl

/-! ### freeChannel -/

@[simp] theorem State.freeChannel_pins (c : ChannelId) : (s.freeChannel c).pins = s.pins := rfl
@[simp] theorem State.freeChannel_host (c : ChannelId) : (s.freeChannel c).host = s.host := rfl
@[simp] theorem State.freeChannel_fetch (c : ChannelId) : (s.freeChannel c).fetch = s.fetch := rfl
@[simp] theorem State.freeChannel_poster (c : ChannelId) : (s.freeChannel c).poster = s.poster := rfl
@[simp] theorem State.freeChannel_orders (c : ChannelId) : (s.freeChannel c).orders = s.orders := rfl
@[simp] theorem State.freeChannel_gather (c : ChannelId) : (s.freeChannel c).gather = s.gather := rfl
@[simp] theorem State.freeChannel_reader (c : ChannelId) : (s.freeChannel c).reader = s.reader := rfl
@[simp] theorem State.freeChannel_pool (c : ChannelId) : (s.freeChannel c).pool = s.pool := rfl
@[simp] theorem State.freeChannel_devices (c : ChannelId) : (s.freeChannel c).devices = s.devices := rfl
@[simp] theorem State.freeChannel_zones (c : ChannelId) : (s.freeChannel c).zones = s.zones := rfl
@[simp] theorem State.freeChannel_loader (c : ChannelId) : (s.freeChannel c).loader = s.loader := rfl
@[simp] theorem State.freeChannel_event (c : ChannelId) : (s.freeChannel c).event = s.event := rfl
@[simp] theorem State.freeChannel_startedGather (c : ChannelId) : (s.freeChannel c).startedGather = s.startedGather := rfl
@[simp] theorem State.freeChannel_startedRead (c : ChannelId) : (s.freeChannel c).startedRead = s.startedRead := rfl
@[simp] theorem State.freeChannel_pending (c : ChannelId) : (s.freeChannel c).pending = s.pending := rfl

/-! ### queueStart -/

@[simp] theorem State.queueStart_pins (b : BufferId) (d : DevicePos) : (s.queueStart b d).pins = s.pins := rfl
@[simp] theorem State.queueStart_host (b : BufferId) (d : DevicePos) : (s.queueStart b d).host = s.host := rfl
@[simp] theorem State.queueStart_fetch (b : BufferId) (d : DevicePos) : (s.queueStart b d).fetch = s.fetch := rfl
@[simp] theorem State.queueStart_poster (b : BufferId) (d : DevicePos) : (s.queueStart b d).poster = s.poster := rfl
@[simp] theorem State.queueStart_orders (b : BufferId) (d : DevicePos) : (s.queueStart b d).orders = s.orders := rfl
@[simp] theorem State.queueStart_gather (b : BufferId) (d : DevicePos) : (s.queueStart b d).gather = s.gather := rfl
@[simp] theorem State.queueStart_reader (b : BufferId) (d : DevicePos) : (s.queueStart b d).reader = s.reader := rfl
@[simp] theorem State.queueStart_devices (b : BufferId) (d : DevicePos) : (s.queueStart b d).devices = s.devices := rfl
@[simp] theorem State.queueStart_zones (b : BufferId) (d : DevicePos) : (s.queueStart b d).zones = s.zones := rfl
@[simp] theorem State.queueStart_loader (b : BufferId) (d : DevicePos) : (s.queueStart b d).loader = s.loader := rfl
@[simp] theorem State.queueStart_event (b : BufferId) (d : DevicePos) : (s.queueStart b d).event = s.event := rfl
@[simp] theorem State.queueStart_startedGather (b : BufferId) (d : DevicePos) : (s.queueStart b d).startedGather = s.startedGather := rfl
@[simp] theorem State.queueStart_startedRead (b : BufferId) (d : DevicePos) : (s.queueStart b d).startedRead = s.startedRead := rfl
@[simp] theorem State.queueStart_pending (b : BufferId) (d : DevicePos) : (s.queueStart b d).pending = s.pending := rfl

/-! ### freeBuffer -/

@[simp] theorem State.freeBuffer_pins (b : BufferId) (d : DevicePos) : (s.freeBuffer b d).pins = s.pins := rfl
@[simp] theorem State.freeBuffer_host (b : BufferId) (d : DevicePos) : (s.freeBuffer b d).host = s.host := rfl
@[simp] theorem State.freeBuffer_fetch (b : BufferId) (d : DevicePos) : (s.freeBuffer b d).fetch = s.fetch := rfl
@[simp] theorem State.freeBuffer_poster (b : BufferId) (d : DevicePos) : (s.freeBuffer b d).poster = s.poster := rfl
@[simp] theorem State.freeBuffer_reader (b : BufferId) (d : DevicePos) : (s.freeBuffer b d).reader = s.reader := rfl
@[simp] theorem State.freeBuffer_zones (b : BufferId) (d : DevicePos) : (s.freeBuffer b d).zones = s.zones := rfl
@[simp] theorem State.freeBuffer_loader (b : BufferId) (d : DevicePos) : (s.freeBuffer b d).loader = s.loader := rfl
@[simp] theorem State.freeBuffer_event (b : BufferId) (d : DevicePos) : (s.freeBuffer b d).event = s.event := rfl
@[simp] theorem State.freeBuffer_startedGather (b : BufferId) (d : DevicePos) : (s.freeBuffer b d).startedGather = s.startedGather := rfl
@[simp] theorem State.freeBuffer_startedRead (b : BufferId) (d : DevicePos) : (s.freeBuffer b d).startedRead = s.startedRead := rfl
@[simp] theorem State.freeBuffer_pending (b : BufferId) (d : DevicePos) : (s.freeBuffer b d).pending = s.pending := rfl

/-! ### parkRead -/

@[simp] theorem State.parkRead_pins (e : EntryId) (d : DevicePos) : (s.parkRead e d).pins = s.pins := rfl
@[simp] theorem State.parkRead_host (e : EntryId) (d : DevicePos) : (s.parkRead e d).host = s.host := rfl
@[simp] theorem State.parkRead_fetch (e : EntryId) (d : DevicePos) : (s.parkRead e d).fetch = s.fetch := rfl
@[simp] theorem State.parkRead_poster (e : EntryId) (d : DevicePos) : (s.parkRead e d).poster = s.poster := rfl
@[simp] theorem State.parkRead_gather (e : EntryId) (d : DevicePos) : (s.parkRead e d).gather = s.gather := rfl
@[simp] theorem State.parkRead_pool (e : EntryId) (d : DevicePos) : (s.parkRead e d).pool = s.pool := rfl
@[simp] theorem State.parkRead_devices (e : EntryId) (d : DevicePos) : (s.parkRead e d).devices = s.devices := rfl
@[simp] theorem State.parkRead_zones (e : EntryId) (d : DevicePos) : (s.parkRead e d).zones = s.zones := rfl
@[simp] theorem State.parkRead_loader (e : EntryId) (d : DevicePos) : (s.parkRead e d).loader = s.loader := rfl
@[simp] theorem State.parkRead_event (e : EntryId) (d : DevicePos) : (s.parkRead e d).event = s.event := rfl
@[simp] theorem State.parkRead_startedGather (e : EntryId) (d : DevicePos) : (s.parkRead e d).startedGather = s.startedGather := rfl
@[simp] theorem State.parkRead_startedRead (e : EntryId) (d : DevicePos) : (s.parkRead e d).startedRead = s.startedRead := rfl
@[simp] theorem State.parkRead_pending (e : EntryId) (d : DevicePos) : (s.parkRead e d).pending = s.pending := rfl

/-! ### setBW -/

@[simp] theorem State.setBW_host (bw : Bool) : (s.setBW bw).host = s.host := rfl
@[simp] theorem State.setBW_fetch (bw : Bool) : (s.setBW bw).fetch = s.fetch := rfl
@[simp] theorem State.setBW_poster (bw : Bool) : (s.setBW bw).poster = s.poster := rfl
@[simp] theorem State.setBW_orders (bw : Bool) : (s.setBW bw).orders = s.orders := rfl
@[simp] theorem State.setBW_gather (bw : Bool) : (s.setBW bw).gather = s.gather := rfl
@[simp] theorem State.setBW_reader (bw : Bool) : (s.setBW bw).reader = s.reader := rfl
@[simp] theorem State.setBW_pool (bw : Bool) : (s.setBW bw).pool = s.pool := rfl
@[simp] theorem State.setBW_channels (bw : Bool) : (s.setBW bw).channels = s.channels := rfl
@[simp] theorem State.setBW_devices (bw : Bool) : (s.setBW bw).devices = s.devices := rfl
@[simp] theorem State.setBW_zones (bw : Bool) : (s.setBW bw).zones = s.zones := rfl
@[simp] theorem State.setBW_loader (bw : Bool) : (s.setBW bw).loader = s.loader := rfl
@[simp] theorem State.setBW_event (bw : Bool) : (s.setBW bw).event = s.event := rfl
@[simp] theorem State.setBW_startedGather (bw : Bool) : (s.setBW bw).startedGather = s.startedGather := rfl
@[simp] theorem State.setBW_startedRead (bw : Bool) : (s.setBW bw).startedRead = s.startedRead := rfl
@[simp] theorem State.setBW_pending (bw : Bool) : (s.setBW bw).pending = s.pending := rfl

/-! ### takeEnables -/

@[simp] theorem State.takeEnables_pins (i f : Bool) : (s.takeEnables i f).pins = s.pins := rfl
@[simp] theorem State.takeEnables_fetch (i f : Bool) : (s.takeEnables i f).fetch = s.fetch := rfl
@[simp] theorem State.takeEnables_poster (i f : Bool) : (s.takeEnables i f).poster = s.poster := rfl
@[simp] theorem State.takeEnables_orders (i f : Bool) : (s.takeEnables i f).orders = s.orders := rfl
@[simp] theorem State.takeEnables_gather (i f : Bool) : (s.takeEnables i f).gather = s.gather := rfl
@[simp] theorem State.takeEnables_reader (i f : Bool) : (s.takeEnables i f).reader = s.reader := rfl
@[simp] theorem State.takeEnables_pool (i f : Bool) : (s.takeEnables i f).pool = s.pool := rfl
@[simp] theorem State.takeEnables_channels (i f : Bool) : (s.takeEnables i f).channels = s.channels := rfl
@[simp] theorem State.takeEnables_devices (i f : Bool) : (s.takeEnables i f).devices = s.devices := rfl
@[simp] theorem State.takeEnables_zones (i f : Bool) : (s.takeEnables i f).zones = s.zones := rfl
@[simp] theorem State.takeEnables_loader (i f : Bool) : (s.takeEnables i f).loader = s.loader := rfl
@[simp] theorem State.takeEnables_event (i f : Bool) : (s.takeEnables i f).event = s.event := rfl
@[simp] theorem State.takeEnables_startedGather (i f : Bool) : (s.takeEnables i f).startedGather = s.startedGather := rfl
@[simp] theorem State.takeEnables_startedRead (i f : Bool) : (s.takeEnables i f).startedRead = s.startedRead := rfl
@[simp] theorem State.takeEnables_pending (i f : Bool) : (s.takeEnables i f).pending = s.pending := rfl

/-! ### putEntry -/

@[simp] theorem State.putEntry_pins (e : EntryId) (x : Entry) : (s.putEntry e x).pins = s.pins := rfl
@[simp] theorem State.putEntry_host (e : EntryId) (x : Entry) : (s.putEntry e x).host = s.host := rfl
@[simp] theorem State.putEntry_fetch (e : EntryId) (x : Entry) : (s.putEntry e x).fetch = s.fetch := rfl
@[simp] theorem State.putEntry_poster (e : EntryId) (x : Entry) : (s.putEntry e x).poster = s.poster := rfl
@[simp] theorem State.putEntry_gather (e : EntryId) (x : Entry) : (s.putEntry e x).gather = s.gather := rfl
@[simp] theorem State.putEntry_reader (e : EntryId) (x : Entry) : (s.putEntry e x).reader = s.reader := rfl
@[simp] theorem State.putEntry_pool (e : EntryId) (x : Entry) : (s.putEntry e x).pool = s.pool := rfl
@[simp] theorem State.putEntry_channels (e : EntryId) (x : Entry) : (s.putEntry e x).channels = s.channels := rfl
@[simp] theorem State.putEntry_devices (e : EntryId) (x : Entry) : (s.putEntry e x).devices = s.devices := rfl
@[simp] theorem State.putEntry_zones (e : EntryId) (x : Entry) : (s.putEntry e x).zones = s.zones := rfl
@[simp] theorem State.putEntry_loader (e : EntryId) (x : Entry) : (s.putEntry e x).loader = s.loader := rfl
@[simp] theorem State.putEntry_event (e : EntryId) (x : Entry) : (s.putEntry e x).event = s.event := rfl
@[simp] theorem State.putEntry_startedGather (e : EntryId) (x : Entry) : (s.putEntry e x).startedGather = s.startedGather := rfl
@[simp] theorem State.putEntry_startedRead (e : EntryId) (x : Entry) : (s.putEntry e x).startedRead = s.startedRead := rfl
@[simp] theorem State.putEntry_pending (e : EntryId) (x : Entry) : (s.putEntry e x).pending = s.pending := rfl

/-! ### grantSetup -/

@[simp] theorem State.grantSetup_pins : (s.grantSetup).pins = s.pins := rfl
@[simp] theorem State.grantSetup_fetch : (s.grantSetup).fetch = s.fetch := rfl
@[simp] theorem State.grantSetup_poster : (s.grantSetup).poster = s.poster := rfl
@[simp] theorem State.grantSetup_orders : (s.grantSetup).orders = s.orders := rfl
@[simp] theorem State.grantSetup_gather : (s.grantSetup).gather = s.gather := rfl
@[simp] theorem State.grantSetup_reader : (s.grantSetup).reader = s.reader := rfl
@[simp] theorem State.grantSetup_pool : (s.grantSetup).pool = s.pool := rfl
@[simp] theorem State.grantSetup_channels : (s.grantSetup).channels = s.channels := rfl
@[simp] theorem State.grantSetup_devices : (s.grantSetup).devices = s.devices := rfl
@[simp] theorem State.grantSetup_zones : (s.grantSetup).zones = s.zones := rfl
@[simp] theorem State.grantSetup_loader : (s.grantSetup).loader = s.loader := rfl
@[simp] theorem State.grantSetup_event : (s.grantSetup).event = s.event := rfl
@[simp] theorem State.grantSetup_startedGather : (s.grantSetup).startedGather = s.startedGather := rfl
@[simp] theorem State.grantSetup_startedRead : (s.grantSetup).startedRead = s.startedRead := rfl
@[simp] theorem State.grantSetup_pending : (s.grantSetup).pending = s.pending := rfl

/-! ### grantRequest -/

@[simp] theorem State.grantRequest_pins (r : Request) : (s.grantRequest r).pins = s.pins := rfl
@[simp] theorem State.grantRequest_fetch (r : Request) : (s.grantRequest r).fetch = s.fetch := rfl
@[simp] theorem State.grantRequest_poster (r : Request) : (s.grantRequest r).poster = s.poster := rfl
@[simp] theorem State.grantRequest_orders (r : Request) : (s.grantRequest r).orders = s.orders := rfl
@[simp] theorem State.grantRequest_gather (r : Request) : (s.grantRequest r).gather = s.gather := rfl
@[simp] theorem State.grantRequest_reader (r : Request) : (s.grantRequest r).reader = s.reader := rfl
@[simp] theorem State.grantRequest_pool (r : Request) : (s.grantRequest r).pool = s.pool := rfl
@[simp] theorem State.grantRequest_channels (r : Request) : (s.grantRequest r).channels = s.channels := rfl
@[simp] theorem State.grantRequest_devices (r : Request) : (s.grantRequest r).devices = s.devices := rfl
@[simp] theorem State.grantRequest_zones (r : Request) : (s.grantRequest r).zones = s.zones := rfl
@[simp] theorem State.grantRequest_loader (r : Request) : (s.grantRequest r).loader = s.loader := rfl
@[simp] theorem State.grantRequest_event (r : Request) : (s.grantRequest r).event = s.event := rfl
@[simp] theorem State.grantRequest_startedGather (r : Request) : (s.grantRequest r).startedGather = s.startedGather := rfl
@[simp] theorem State.grantRequest_startedRead (r : Request) : (s.grantRequest r).startedRead = s.startedRead := rfl
@[simp] theorem State.grantRequest_pending (r : Request) : (s.grantRequest r).pending = s.pending := rfl

/-! ### grantFetch -/

@[simp] theorem State.grantFetch_pins (c : RingConfig) : (s.grantFetch c).pins = s.pins := rfl
@[simp] theorem State.grantFetch_poster (c : RingConfig) : (s.grantFetch c).poster = s.poster := rfl
@[simp] theorem State.grantFetch_orders (c : RingConfig) : (s.grantFetch c).orders = s.orders := rfl
@[simp] theorem State.grantFetch_gather (c : RingConfig) : (s.grantFetch c).gather = s.gather := rfl
@[simp] theorem State.grantFetch_reader (c : RingConfig) : (s.grantFetch c).reader = s.reader := rfl
@[simp] theorem State.grantFetch_pool (c : RingConfig) : (s.grantFetch c).pool = s.pool := rfl
@[simp] theorem State.grantFetch_channels (c : RingConfig) : (s.grantFetch c).channels = s.channels := rfl
@[simp] theorem State.grantFetch_devices (c : RingConfig) : (s.grantFetch c).devices = s.devices := rfl
@[simp] theorem State.grantFetch_zones (c : RingConfig) : (s.grantFetch c).zones = s.zones := rfl
@[simp] theorem State.grantFetch_loader (c : RingConfig) : (s.grantFetch c).loader = s.loader := rfl
@[simp] theorem State.grantFetch_event (c : RingConfig) : (s.grantFetch c).event = s.event := rfl
@[simp] theorem State.grantFetch_startedGather (c : RingConfig) : (s.grantFetch c).startedGather = s.startedGather := rfl
@[simp] theorem State.grantFetch_startedRead (c : RingConfig) : (s.grantFetch c).startedRead = s.startedRead := rfl
@[simp] theorem State.grantFetch_pending (c : RingConfig) : (s.grantFetch c).pending = s.pending := rfl

/-! ### enterSettingUp -/

@[simp] theorem State.enterSettingUp_pins : (s.enterSettingUp).pins = s.pins := rfl
@[simp] theorem State.enterSettingUp_fetch : (s.enterSettingUp).fetch = s.fetch := rfl
@[simp] theorem State.enterSettingUp_poster : (s.enterSettingUp).poster = s.poster := rfl
@[simp] theorem State.enterSettingUp_orders : (s.enterSettingUp).orders = s.orders := rfl
@[simp] theorem State.enterSettingUp_gather : (s.enterSettingUp).gather = s.gather := rfl
@[simp] theorem State.enterSettingUp_reader : (s.enterSettingUp).reader = s.reader := rfl
@[simp] theorem State.enterSettingUp_pool : (s.enterSettingUp).pool = s.pool := rfl
@[simp] theorem State.enterSettingUp_channels : (s.enterSettingUp).channels = s.channels := rfl
@[simp] theorem State.enterSettingUp_devices : (s.enterSettingUp).devices = s.devices := rfl
@[simp] theorem State.enterSettingUp_zones : (s.enterSettingUp).zones = s.zones := rfl
@[simp] theorem State.enterSettingUp_loader : (s.enterSettingUp).loader = s.loader := rfl
@[simp] theorem State.enterSettingUp_event : (s.enterSettingUp).event = s.event := rfl
@[simp] theorem State.enterSettingUp_startedGather : (s.enterSettingUp).startedGather = s.startedGather := rfl
@[simp] theorem State.enterSettingUp_startedRead : (s.enterSettingUp).startedRead = s.startedRead := rfl
@[simp] theorem State.enterSettingUp_pending : (s.enterSettingUp).pending = s.pending := rfl

/-! ### configure -/

@[simp] theorem State.configure_pins (b : SetupBlock) : (s.configure b).pins = s.pins := rfl
@[simp] theorem State.configure_poster (b : SetupBlock) : (s.configure b).poster = s.poster := rfl
@[simp] theorem State.configure_orders (b : SetupBlock) : (s.configure b).orders = s.orders := rfl
@[simp] theorem State.configure_gather (b : SetupBlock) : (s.configure b).gather = s.gather := rfl
@[simp] theorem State.configure_reader (b : SetupBlock) : (s.configure b).reader = s.reader := rfl
@[simp] theorem State.configure_channels (b : SetupBlock) : (s.configure b).channels = s.channels := rfl
@[simp] theorem State.configure_devices (b : SetupBlock) : (s.configure b).devices = s.devices := rfl
@[simp] theorem State.configure_zones (b : SetupBlock) : (s.configure b).zones = s.zones := rfl
@[simp] theorem State.configure_loader (b : SetupBlock) : (s.configure b).loader = s.loader := rfl
@[simp] theorem State.configure_event (b : SetupBlock) : (s.configure b).event = s.event := rfl
@[simp] theorem State.configure_startedGather (b : SetupBlock) : (s.configure b).startedGather = s.startedGather := rfl
@[simp] theorem State.configure_startedRead (b : SetupBlock) : (s.configure b).startedRead = s.startedRead := rfl
@[simp] theorem State.configure_pending (b : SetupBlock) : (s.configure b).pending = s.pending := rfl

/-! ### refuseSetup -/

@[simp] theorem State.refuseSetup_pins : (s.refuseSetup).pins = s.pins := rfl
@[simp] theorem State.refuseSetup_fetch : (s.refuseSetup).fetch = s.fetch := rfl
@[simp] theorem State.refuseSetup_poster : (s.refuseSetup).poster = s.poster := rfl
@[simp] theorem State.refuseSetup_orders : (s.refuseSetup).orders = s.orders := rfl
@[simp] theorem State.refuseSetup_gather : (s.refuseSetup).gather = s.gather := rfl
@[simp] theorem State.refuseSetup_reader : (s.refuseSetup).reader = s.reader := rfl
@[simp] theorem State.refuseSetup_pool : (s.refuseSetup).pool = s.pool := rfl
@[simp] theorem State.refuseSetup_channels : (s.refuseSetup).channels = s.channels := rfl
@[simp] theorem State.refuseSetup_devices : (s.refuseSetup).devices = s.devices := rfl
@[simp] theorem State.refuseSetup_zones : (s.refuseSetup).zones = s.zones := rfl
@[simp] theorem State.refuseSetup_loader : (s.refuseSetup).loader = s.loader := rfl
@[simp] theorem State.refuseSetup_event : (s.refuseSetup).event = s.event := rfl
@[simp] theorem State.refuseSetup_startedGather : (s.refuseSetup).startedGather = s.startedGather := rfl
@[simp] theorem State.refuseSetup_startedRead : (s.refuseSetup).startedRead = s.startedRead := rfl
@[simp] theorem State.refuseSetup_pending : (s.refuseSetup).pending = s.pending := rfl

/-! ### halt -/

@[simp] theorem State.halt_pins (f : FaultFlag) : (s.halt f).pins = s.pins := rfl
@[simp] theorem State.halt_fetch (f : FaultFlag) : (s.halt f).fetch = s.fetch := rfl
@[simp] theorem State.halt_poster (f : FaultFlag) : (s.halt f).poster = s.poster := rfl
@[simp] theorem State.halt_orders (f : FaultFlag) : (s.halt f).orders = s.orders := rfl
@[simp] theorem State.halt_gather (f : FaultFlag) : (s.halt f).gather = s.gather := rfl
@[simp] theorem State.halt_reader (f : FaultFlag) : (s.halt f).reader = s.reader := rfl
@[simp] theorem State.halt_pool (f : FaultFlag) : (s.halt f).pool = s.pool := rfl
@[simp] theorem State.halt_channels (f : FaultFlag) : (s.halt f).channels = s.channels := rfl
@[simp] theorem State.halt_devices (f : FaultFlag) : (s.halt f).devices = s.devices := rfl
@[simp] theorem State.halt_zones (f : FaultFlag) : (s.halt f).zones = s.zones := rfl
@[simp] theorem State.halt_loader (f : FaultFlag) : (s.halt f).loader = s.loader := rfl
@[simp] theorem State.halt_event (f : FaultFlag) : (s.halt f).event = s.event := rfl
@[simp] theorem State.halt_startedGather (f : FaultFlag) : (s.halt f).startedGather = s.startedGather := rfl
@[simp] theorem State.halt_startedRead (f : FaultFlag) : (s.halt f).startedRead = s.startedRead := rfl
@[simp] theorem State.halt_pending (f : FaultFlag) : (s.halt f).pending = s.pending := rfl

/-! ### posted -/

@[simp] theorem State.posted_pins (e : EntryId) : (s.posted e).pins = s.pins := rfl
@[simp] theorem State.posted_host (e : EntryId) : (s.posted e).host = s.host := rfl
@[simp] theorem State.posted_fetch (e : EntryId) : (s.posted e).fetch = s.fetch := rfl
@[simp] theorem State.posted_gather (e : EntryId) : (s.posted e).gather = s.gather := rfl
@[simp] theorem State.posted_reader (e : EntryId) : (s.posted e).reader = s.reader := rfl
@[simp] theorem State.posted_pool (e : EntryId) : (s.posted e).pool = s.pool := rfl
@[simp] theorem State.posted_channels (e : EntryId) : (s.posted e).channels = s.channels := rfl
@[simp] theorem State.posted_devices (e : EntryId) : (s.posted e).devices = s.devices := rfl
@[simp] theorem State.posted_zones (e : EntryId) : (s.posted e).zones = s.zones := rfl
@[simp] theorem State.posted_loader (e : EntryId) : (s.posted e).loader = s.loader := rfl
@[simp] theorem State.posted_event (e : EntryId) : (s.posted e).event = s.event := rfl
@[simp] theorem State.posted_startedGather (e : EntryId) : (s.posted e).startedGather = s.startedGather := rfl
@[simp] theorem State.posted_startedRead (e : EntryId) : (s.posted e).startedRead = s.startedRead := rfl
@[simp] theorem State.posted_pending (e : EntryId) : (s.posted e).pending = s.pending := rfl

/-! ### withPending -/

@[simp] theorem State.withPending_pins (q : List Instr) : (s.withPending q).pins = s.pins := rfl
@[simp] theorem State.withPending_host (q : List Instr) : (s.withPending q).host = s.host := rfl
@[simp] theorem State.withPending_fetch (q : List Instr) : (s.withPending q).fetch = s.fetch := rfl
@[simp] theorem State.withPending_poster (q : List Instr) : (s.withPending q).poster = s.poster := rfl
@[simp] theorem State.withPending_orders (q : List Instr) : (s.withPending q).orders = s.orders := rfl
@[simp] theorem State.withPending_gather (q : List Instr) : (s.withPending q).gather = s.gather := rfl
@[simp] theorem State.withPending_reader (q : List Instr) : (s.withPending q).reader = s.reader := rfl
@[simp] theorem State.withPending_pool (q : List Instr) : (s.withPending q).pool = s.pool := rfl
@[simp] theorem State.withPending_channels (q : List Instr) : (s.withPending q).channels = s.channels := rfl
@[simp] theorem State.withPending_devices (q : List Instr) : (s.withPending q).devices = s.devices := rfl
@[simp] theorem State.withPending_zones (q : List Instr) : (s.withPending q).zones = s.zones := rfl
@[simp] theorem State.withPending_loader (q : List Instr) : (s.withPending q).loader = s.loader := rfl
@[simp] theorem State.withPending_event (q : List Instr) : (s.withPending q).event = s.event := rfl
@[simp] theorem State.withPending_startedGather (q : List Instr) : (s.withPending q).startedGather = s.startedGather := rfl
@[simp] theorem State.withPending_startedRead (q : List Instr) : (s.withPending q).startedRead = s.startedRead := rfl

/-! ### What is written -/

@[simp] theorem State.withPending_pending (q : List Instr) : (s.withPending q).pending = q := rfl
@[simp] theorem State.setEngine_engine (t : Option Transfer) : (s.setEngine t).host.engine = t := rfl
@[simp] theorem State.setEngine_part (t : Option Transfer) : (s.setEngine t).host.part = s.host.part := rfl
@[simp] theorem State.halt_part (f : FaultFlag) : (s.halt f).host.part = .halted := rfl
@[simp] theorem State.halt_engine (f : FaultFlag) : (s.halt f).host.engine = s.host.engine := rfl
@[simp] theorem State.releaseTurn_gather : s.releaseTurn.gather = ⟨s.gather.queue, none⟩ := rfl
@[simp] theorem State.beginTurn_gather (e : EntryId) (w : TurnWork) :
    (s.beginTurn e w).gather = ⟨s.gather.queue, some ⟨e, w, none, none, [], []⟩⟩ := rfl
@[simp] theorem State.updateIntreq_intreq : s.updateIntreq.pins.intreq = s.intreqCondition := rfl
@[simp] theorem State.updateIntreq_hrst : s.updateIntreq.pins.hrst = s.pins.hrst := rfl
@[simp] theorem State.updateIntreq_grd : s.updateIntreq.pins.grd = s.pins.grd := rfl
@[simp] theorem State.updateIntreq_bw : s.updateIntreq.pins.bw = s.pins.bw := rfl
@[simp] theorem State.newEvent_event : s.newEvent.event = s.event + 1 := rfl

/-! ### One place of a table -/

@[simp] theorem State.mapEntry_entry (e : EntryId) (f : Entry → Entry) : (s.mapEntry e f).entry? e = (s.entry? e).map f := by
  simp [State.mapEntry, State.entry?]

theorem State.mapEntry_other (e e' : EntryId) (f : Entry → Entry) (h : e' ≠ e) : (s.mapEntry e f).entry? e' = s.entry? e' := by
  have : (e : Nat) ≠ e' := fun k => h (Fin.ext k.symm)
  simp [State.mapEntry, State.entry?, this]

@[simp] theorem State.mapEntries_entry (e : EntryId) (f : Entry → Entry) :
    (s.mapEntries f).entry? e = (s.entry? e).map f := by simp [State.mapEntries, State.entry?]

@[simp] theorem State.mapBuffer_buffer (b : BufferId) (f : Buffer → Buffer) :
    (s.mapBuffer b f).buffer? b = (s.buffer? b).map f := by simp [State.mapBuffer, State.buffer?]

theorem State.mapBuffer_other (b b' : BufferId) (f : Buffer → Buffer) (h : b' ≠ b) :
    (s.mapBuffer b f).buffer? b' = s.buffer? b' := by
  have : (b : Nat) ≠ b' := fun k => h (Fin.ext k.symm)
  simp [State.mapBuffer, State.buffer?, this]

@[simp] theorem State.mapBuffers_buffer (b : BufferId) (f : Buffer → Buffer) :
    (s.mapBuffers f).buffer? b = (s.buffer? b).map f := by simp [State.mapBuffers, State.buffer?]

@[simp] theorem State.mapDevice_device (d : DevicePos) (f : DeviceRecord → DeviceRecord) :
    (s.mapDevice d f).device d = f (s.device d) := by simp [State.mapDevice, State.device]

theorem State.mapDevice_other (d d' : DevicePos) (f : DeviceRecord → DeviceRecord) (h : d' ≠ d) :
    (s.mapDevice d f).device d' = s.device d' := by
  have : (d : Nat) ≠ d' := fun k => h (Fin.ext k.symm)
  simp [State.mapDevice, State.device, this]

@[simp] theorem State.mapChannel_channel (c : ChannelId) (f : ChannelEngine → ChannelEngine) :
    (s.mapChannel c f).channel c = f (s.channel c) := by simp [State.mapChannel, State.channel]

theorem State.mapChannel_other (c c' : ChannelId) (f : ChannelEngine → ChannelEngine) (h : c' ≠ c) :
    (s.mapChannel c f).channel c' = s.channel c' := by
  have : (c : Nat) ≠ c' := fun k => h (Fin.ext k.symm)
  simp [State.mapChannel, State.channel, this]

end Sys2Proof.Machine
end

