-- ==== Sys2Proof/Laws/Follow.lean ====
section
/-! SUPPORT. What the work inside the part never touches. `State.kept` collects it: the lines, the ring and completion indices,
the CONTROL bits, SETUP_ADDR, a pending reset, the guard level, the numbering of events and of orders, the commands that wait, and
the identity of every order entry (R70). Every operation of the Pool, the Gather Engine, the Read Engine and the Channel Engines, and
so every follow-on action of an event, leaves it as it is. -/

namespace Sys2Proof.Machine

/-- What no work inside the part touches. -/
structure Kept where
  pins : Pins
  fetch : RingFetch
  poster : Poster
  event : Nat
  pending : List Instr
  guard : Bool
  run : Bool
  intEnable : Bool
  faultIntEnable : Bool
  setupAddr : Word
  resetPending : Bool
  sequence : BitVec 32
  identities : Vector (Option Identity) 32

/-- That part of a state. -/
def State.kept (s : State) : Kept where
  pins := s.pins
  fetch := s.fetch
  poster := s.poster
  event := s.event
  pending := s.pending
  guard := s.zones.guard
  run := s.host.run
  intEnable := s.host.intEnable
  faultIntEnable := s.host.faultIntEnable
  setupAddr := s.host.setupAddr
  resetPending := s.host.resetPending
  sequence := s.orders.sequence
  identities := s.orders.entries.map (Option.map Entry.identity)

/-- The part state and the waiting setup block read: of the work inside the part, only the ends of the load and of a drain change
them. -/
def State.mode (s : State) : PartState × Bool := (s.host.part, s.host.setupRequest)

/-! ### Folds and choices -/

theorem kept_foldl {α : Type} (f : State → α → State) (h : ∀ s a, (f s a).kept = s.kept) (l : List α) (s : State) :
    (l.foldl f s).kept = s.kept := by
  induction l generalizing s with
  | nil => rfl
  | cons a l ih => rw [List.foldl_cons, ih, h]

theorem engine_foldl {α : Type} (f : State → α → State) (h : ∀ s a, (f s a).host.engine = s.host.engine) (l : List α)
    (s : State) : (l.foldl f s).host.engine = s.host.engine := by
  induction l generalizing s with
  | nil => rfl
  | cons a l ih => rw [List.foldl_cons, ih, h]

theorem mode_foldl {α : Type} (f : State → α → State) (h : ∀ s a, (f s a).mode = s.mode) (l : List α) (s : State) :
    (l.foldl f s).mode = s.mode := by
  induction l generalizing s with
  | nil => rfl
  | cons a l ih => rw [List.foldl_cons, ih, h]

/-! ### Single updates -/

theorem State.identities_mapEntry (s : State) (e : EntryId) (f : Entry → Entry) (h : ∀ x, (f x).identity = x.identity) :
    (s.mapEntry e f).orders.entries.map (Option.map Entry.identity) = s.orders.entries.map (Option.map Entry.identity) := by
  ext i hi : 1
  simp only [State.mapEntry, State.entry?, Vector.getElem_map, Vector.getElem_set]
  split
  · rename_i k; subst k
    simp only [Fin.getElem_fin]
    cases s.orders.entries[e.val] <;> simp [h]
  · rfl

theorem State.identities_mapEntries (s : State) (f : Entry → Entry) (h : ∀ x, (f x).identity = x.identity) :
    (s.mapEntries f).orders.entries.map (Option.map Entry.identity) = s.orders.entries.map (Option.map Entry.identity) := by
  ext i hi : 1
  simp only [State.mapEntries, Vector.getElem_map]
  cases s.orders.entries[i] <;> simp [h]

theorem State.kept_mapEntry (s : State) (e : EntryId) (f : Entry → Entry) (h : ∀ x, (f x).identity = x.identity) :
    (s.mapEntry e f).kept = s.kept := by
  simp [State.kept, State.identities_mapEntry s e f h]; rfl

theorem State.kept_mapEntries (s : State) (f : Entry → Entry) (h : ∀ x, (f x).identity = x.identity) :
    (s.mapEntries f).kept = s.kept := by
  simp [State.kept, State.identities_mapEntries s f h]; rfl

@[simp] theorem State.mode_mapEntry (s : State) (e : EntryId) (f : Entry → Entry) : (s.mapEntry e f).mode = s.mode := rfl
@[simp] theorem State.mode_mapEntries (s : State) (f : Entry → Entry) : (s.mapEntries f).mode = s.mode := rfl

@[simp] theorem State.kept_mapBuffer (s : State) (b : BufferId) (f : Buffer → Buffer) : (s.mapBuffer b f).kept = s.kept := rfl
@[simp] theorem State.engine_mapBuffer (s : State) (b : BufferId) (f : Buffer → Buffer) : (s.mapBuffer b f).host.engine = s.host.engine := rfl
@[simp] theorem State.mode_mapBuffer (s : State) (b : BufferId) (f : Buffer → Buffer) : (s.mapBuffer b f).mode = s.mode := rfl
@[simp] theorem State.kept_mapBuffers (s : State) (f : Buffer → Buffer) : (s.mapBuffers f).kept = s.kept := rfl
@[simp] theorem State.engine_mapBuffers (s : State) (f : Buffer → Buffer) : (s.mapBuffers f).host.engine = s.host.engine := rfl
@[simp] theorem State.mode_mapBuffers (s : State) (f : Buffer → Buffer) : (s.mapBuffers f).mode = s.mode := rfl
@[simp] theorem State.kept_mapDevice (s : State) (d : DevicePos) (f : DeviceRecord → DeviceRecord) : (s.mapDevice d f).kept = s.kept := rfl
@[simp] theorem State.engine_mapDevice (s : State) (d : DevicePos) (f : DeviceRecord → DeviceRecord) : (s.mapDevice d f).host.engine = s.host.engine := rfl
@[simp] theorem State.mode_mapDevice (s : State) (d : DevicePos) (f : DeviceRecord → DeviceRecord) : (s.mapDevice d f).mode = s.mode := rfl
@[simp] theorem State.kept_mapChannel (s : State) (c : ChannelId) (f : ChannelEngine → ChannelEngine) : (s.mapChannel c f).kept = s.kept := rfl
@[simp] theorem State.engine_mapChannel (s : State) (c : ChannelId) (f : ChannelEngine → ChannelEngine) : (s.mapChannel c f).host.engine = s.host.engine := rfl
@[simp] theorem State.mode_mapChannel (s : State) (c : ChannelId) (f : ChannelEngine → ChannelEngine) : (s.mapChannel c f).mode = s.mode := rfl
@[simp] theorem State.kept_mapTurn (s : State) (f : Turn → Turn) : (s.mapTurn f).kept = s.kept := rfl
@[simp] theorem State.engine_mapTurn (s : State) (f : Turn → Turn) : (s.mapTurn f).host.engine = s.host.engine := rfl
@[simp] theorem State.mode_mapTurn (s : State) (f : Turn → Turn) : (s.mapTurn f).mode = s.mode := rfl
@[simp] theorem State.kept_setFault (s : State) (f : FaultFlag) : (s.setFault f).kept = s.kept := rfl
@[simp] theorem State.engine_setFault (s : State) (f : FaultFlag) : (s.setFault f).host.engine = s.host.engine := rfl
@[simp] theorem State.mode_setFault (s : State) (f : FaultFlag) : (s.setFault f).mode = s.mode := rfl
@[simp] theorem State.kept_queueItem (s : State) (d : DevicePos) (w : Work) : (s.queueItem d w).kept = s.kept := rfl
@[simp] theorem State.engine_queueItem (s : State) (d : DevicePos) (w : Work) : (s.queueItem d w).host.engine = s.host.engine := rfl
@[simp] theorem State.mode_queueItem (s : State) (d : DevicePos) (w : Work) : (s.queueItem d w).mode = s.mode := rfl
@[simp] theorem State.kept_withdrawItems (s : State) (d : DevicePos) : (s.withdrawItems d).kept = s.kept := rfl
@[simp] theorem State.engine_withdrawItems (s : State) (d : DevicePos) : (s.withdrawItems d).host.engine = s.host.engine := rfl
@[simp] theorem State.mode_withdrawItems (s : State) (d : DevicePos) : (s.withdrawItems d).mode = s.mode := rfl
@[simp] theorem State.kept_withdrawWork (s : State) (d : DevicePos) (w : Work) : (s.withdrawWork d w).kept = s.kept := rfl
@[simp] theorem State.engine_withdrawWork (s : State) (d : DevicePos) (w : Work) : (s.withdrawWork d w).host.engine = s.host.engine := rfl
@[simp] theorem State.mode_withdrawWork (s : State) (d : DevicePos) (w : Work) : (s.withdrawWork d w).mode = s.mode := rfl
@[simp] theorem State.kept_dropFrame (s : State) (d : DevicePos) : (s.dropFrame d).kept = s.kept := rfl
@[simp] theorem State.engine_dropFrame (s : State) (d : DevicePos) : (s.dropFrame d).host.engine = s.host.engine := rfl
@[simp] theorem State.mode_dropFrame (s : State) (d : DevicePos) : (s.dropFrame d).mode = s.mode := rfl
@[simp] theorem State.kept_joinStarted (s : State) : (s.joinStarted).kept = s.kept := rfl
@[simp] theorem State.engine_joinStarted (s : State) : (s.joinStarted).host.engine = s.host.engine := rfl
@[simp] theorem State.mode_joinStarted (s : State) : (s.joinStarted).mode = s.mode := rfl
@[simp] theorem State.kept_wake (s : State) (d : DevicePos) : (s.wake d).kept = s.kept := rfl
@[simp] theorem State.engine_wake (s : State) (d : DevicePos) : (s.wake d).host.engine = s.host.engine := rfl
@[simp] theorem State.mode_wake (s : State) (d : DevicePos) : (s.wake d).mode = s.mode := rfl
@[simp] theorem State.kept_deviceBack (s : State) (d : DevicePos) : (s.deviceBack d).kept = s.kept := rfl
@[simp] theorem State.engine_deviceBack (s : State) (d : DevicePos) : (s.deviceBack d).host.engine = s.host.engine := rfl
@[simp] theorem State.mode_deviceBack (s : State) (d : DevicePos) : (s.deviceBack d).mode = s.mode := rfl
@[simp] theorem State.kept_setGeometry (s : State) (d : DevicePos) (g : Option Geometry) : (s.setGeometry d g).kept = s.kept := rfl
@[simp] theorem State.engine_setGeometry (s : State) (d : DevicePos) (g : Option Geometry) : (s.setGeometry d g).host.engine = s.host.engine := rfl
@[simp] theorem State.mode_setGeometry (s : State) (d : DevicePos) (g : Option Geometry) : (s.setGeometry d g).mode = s.mode := rfl
@[simp] theorem State.kept_releaseTurn (s : State) : (s.releaseTurn).kept = s.kept := rfl
@[simp] theorem State.engine_releaseTurn (s : State) : (s.releaseTurn).host.engine = s.host.engine := rfl
@[simp] theorem State.mode_releaseTurn (s : State) : (s.releaseTurn).mode = s.mode := rfl
@[simp] theorem State.kept_allocate (s : State) (b : BufferId) (d : DevicePos) (p : Nat) : (s.allocate b d p).kept = s.kept := rfl
@[simp] theorem State.engine_allocate (s : State) (b : BufferId) (d : DevicePos) (p : Nat) : (s.allocate b d p).host.engine = s.host.engine := rfl
@[simp] theorem State.mode_allocate (s : State) (b : BufferId) (d : DevicePos) (p : Nat) : (s.allocate b d p).mode = s.mode := rfl
@[simp] theorem State.kept_requestMaster (s : State) (j : Job) (r : List Byte) : (s.requestMaster j r).kept = s.kept := rfl
@[simp] theorem State.engine_requestMaster (s : State) (j : Job) (r : List Byte) : (s.requestMaster j r).host.engine = s.host.engine := rfl
@[simp] theorem State.mode_requestMaster (s : State) (j : Job) (r : List Byte) : (s.requestMaster j r).mode = s.mode := rfl
@[simp] theorem State.kept_leaveContributors (s : State) (e : EntryId) : (s.leaveContributors e).kept = s.kept := rfl
@[simp] theorem State.engine_leaveContributors (s : State) (e : EntryId) : (s.leaveContributors e).host.engine = s.host.engine := rfl
@[simp] theorem State.mode_leaveContributors (s : State) (e : EntryId) : (s.leaveContributors e).mode = s.mode := rfl
@[simp] theorem State.kept_requestBuffer (s : State) (d : DevicePos) (p : Nat) : (s.requestBuffer d p).kept = s.kept := rfl
@[simp] theorem State.engine_requestBuffer (s : State) (d : DevicePos) (p : Nat) : (s.requestBuffer d p).host.engine = s.host.engine := rfl
@[simp] theorem State.mode_requestBuffer (s : State) (d : DevicePos) (p : Nat) : (s.requestBuffer d p).mode = s.mode := rfl
@[simp] theorem State.kept_beginTurn (s : State) (e : EntryId) (w : TurnWork) : (s.beginTurn e w).kept = s.kept := rfl
@[simp] theorem State.engine_beginTurn (s : State) (e : EntryId) (w : TurnWork) : (s.beginTurn e w).host.engine = s.host.engine := rfl
@[simp] theorem State.mode_beginTurn (s : State) (e : EntryId) (w : TurnWork) : (s.beginTurn e w).mode = s.mode := rfl
@[simp] theorem State.kept_setActive (s : State) (a : Option ActiveRead) : (s.setActive a).kept = s.kept := rfl
@[simp] theorem State.engine_setActive (s : State) (a : Option ActiveRead) : (s.setActive a).host.engine = s.host.engine := rfl
@[simp] theorem State.mode_setActive (s : State) (a : Option ActiveRead) : (s.setActive a).mode = s.mode := rfl
@[simp] theorem State.kept_removeItem (s : State) (c : ChannelId) (i : WorkItem) : (s.removeItem c i).kept = s.kept := rfl
@[simp] theorem State.engine_removeItem (s : State) (c : ChannelId) (i : WorkItem) : (s.removeItem c i).host.engine = s.host.engine := rfl
@[simp] theorem State.mode_removeItem (s : State) (c : ChannelId) (i : WorkItem) : (s.removeItem c i).mode = s.mode := rfl
@[simp] theorem State.kept_grantItem (s : State) (c : ChannelId) (i : WorkItem) : (s.grantItem c i).kept = s.kept := rfl
@[simp] theorem State.engine_grantItem (s : State) (c : ChannelId) (i : WorkItem) : (s.grantItem c i).host.engine = s.host.engine := rfl
@[simp] theorem State.mode_grantItem (s : State) (c : ChannelId) (i : WorkItem) : (s.grantItem c i).mode = s.mode := rfl
@[simp] theorem State.kept_beginFrame (s : State) (c : ChannelId) (d : DevicePos) (x : FrameContent) : (s.beginFrame c d x).kept = s.kept := rfl
@[simp] theorem State.engine_beginFrame (s : State) (c : ChannelId) (d : DevicePos) (x : FrameContent) : (s.beginFrame c d x).host.engine = s.host.engine := rfl
@[simp] theorem State.mode_beginFrame (s : State) (c : ChannelId) (d : DevicePos) (x : FrameContent) : (s.beginFrame c d x).mode = s.mode := rfl
@[simp] theorem State.kept_freeChannel (s : State) (c : ChannelId) : (s.freeChannel c).kept = s.kept := rfl
@[simp] theorem State.engine_freeChannel (s : State) (c : ChannelId) : (s.freeChannel c).host.engine = s.host.engine := rfl
@[simp] theorem State.mode_freeChannel (s : State) (c : ChannelId) : (s.freeChannel c).mode = s.mode := rfl
@[simp] theorem State.kept_queueStart (s : State) (b : BufferId) (d : DevicePos) : (s.queueStart b d).kept = s.kept := rfl
@[simp] theorem State.engine_queueStart (s : State) (b : BufferId) (d : DevicePos) : (s.queueStart b d).host.engine = s.host.engine := rfl
@[simp] theorem State.mode_queueStart (s : State) (b : BufferId) (d : DevicePos) : (s.queueStart b d).mode = s.mode := rfl
@[simp] theorem State.kept_enterSettingUp (s : State) : (s.enterSettingUp).kept = s.kept := rfl
@[simp] theorem State.engine_enterSettingUp (s : State) : (s.enterSettingUp).host.engine = s.host.engine := rfl
@[simp] theorem State.kept_giveUp (s : State) (j : Job) : (s.giveUp j).kept = s.kept := rfl
@[simp] theorem State.mode_giveUp (s : State) (j : Job) : (s.giveUp j).mode = s.mode := rfl

/-! ### Orders -/

@[simp] theorem State.kept_goDone (s : State) (e : EntryId) (r : Result) : (s.goDone e r).kept = s.kept := by
  unfold State.goDone
  have h := s.kept_mapEntry e (fun x => { x with state := .done, result := some r }) (fun _ => rfl)
  split
  · exact h
  · exact h

@[simp] theorem State.engine_goDone (s : State) (e : EntryId) (r : Result) : (s.goDone e r).host.engine = s.host.engine := by
  unfold State.goDone; split <;> rfl

@[simp] theorem State.mode_goDone (s : State) (e : EntryId) (r : Result) : (s.goDone e r).mode = s.mode := by
  unfold State.goDone; split <;> rfl

@[simp] theorem State.kept_leaveQueue (s : State) (e : EntryId) : (s.leaveQueue e).kept = s.kept := by
  exact s.kept_mapEntry e _ (fun _ => rfl)

@[simp] theorem State.engine_leaveQueue (s : State) (e : EntryId) : (s.leaveQueue e).host.engine = s.host.engine := by
  rfl

@[simp] theorem State.mode_leaveQueue (s : State) (e : EntryId) : (s.leaveQueue e).mode = s.mode := by
  rfl

@[simp] theorem State.kept_parkRead (s : State) (e : EntryId) (d : DevicePos) : (s.parkRead e d).kept = s.kept := by
  exact State.kept_mapEntry (s.withdrawWork d (.hostRead e)) e (fun x => { x with state := .parked }) (fun _ => rfl)

@[simp] theorem State.engine_parkRead (s : State) (e : EntryId) (d : DevicePos) : (s.parkRead e d).host.engine = s.host.engine := by
  rfl

@[simp] theorem State.mode_parkRead (s : State) (e : EntryId) (d : DevicePos) : (s.parkRead e d).mode = s.mode := by
  rfl

/-! ### Page Buffer Pool -/

@[simp] theorem State.kept_closeBuffer (s : State) (b : BufferId) : (s.closeBuffer b).kept = s.kept := by
  unfold State.closeBuffer; split; · split <;> simp
  · rfl

@[simp] theorem State.engine_closeBuffer (s : State) (b : BufferId) : (s.closeBuffer b).host.engine = s.host.engine := by
  unfold State.closeBuffer; split; · split <;> simp
  · rfl

@[simp] theorem State.mode_closeBuffer (s : State) (b : BufferId) : (s.closeBuffer b).mode = s.mode := by
  unfold State.closeBuffer; split; · split <;> simp
  · rfl

@[simp] theorem State.kept_closeAll (s : State) (bs : List BufferId) : (s.closeAll bs).kept = s.kept := by
  exact kept_foldl _ State.kept_closeBuffer bs s

@[simp] theorem State.engine_closeAll (s : State) (bs : List BufferId) : (s.closeAll bs).host.engine = s.host.engine := by
  exact engine_foldl _ State.engine_closeBuffer bs s

@[simp] theorem State.mode_closeAll (s : State) (bs : List BufferId) : (s.closeAll bs).mode = s.mode := by
  exact mode_foldl _ State.mode_closeBuffer bs s

@[simp] theorem State.kept_noteFailure (s : State) (f : PageFailure) : (s.noteFailure f).kept = s.kept := by
  unfold State.noteFailure; split; · rfl
  · simp only []; split <;> rfl

@[simp] theorem State.engine_noteFailure (s : State) (f : PageFailure) : (s.noteFailure f).host.engine = s.host.engine := by
  unfold State.noteFailure; split; · rfl
  · simp only []; split <;> rfl

@[simp] theorem State.mode_noteFailure (s : State) (f : PageFailure) : (s.noteFailure f).mode = s.mode := by
  unfold State.noteFailure; split; · rfl
  · simp only []; split <;> rfl

@[simp] theorem State.kept_storeEnded (s : State) (j : StoreJob) (g : Bool) : (s.storeEnded j g).kept = s.kept := by
  unfold State.storeEnded; split <;> rfl

@[simp] theorem State.engine_storeEnded (s : State) (j : StoreJob) (g : Bool) : (s.storeEnded j g).host.engine = s.host.engine := by
  unfold State.storeEnded; split <;> rfl

@[simp] theorem State.mode_storeEnded (s : State) (j : StoreJob) (g : Bool) : (s.storeEnded j g).mode = s.mode := by
  unfold State.storeEnded; split <;> rfl

@[simp] theorem State.kept_endDurable (s : State) (e : EntryId) : (s.endDurable e).kept = s.kept := by
  unfold State.endDurable; split; · rfl
  · rw [State.kept_goDone]; split <;> simp

@[simp] theorem State.engine_endDurable (s : State) (e : EntryId) : (s.endDurable e).host.engine = s.host.engine := by
  unfold State.endDurable; split; · rfl
  · rw [State.engine_goDone]; split <;> simp

@[simp] theorem State.mode_endDurable (s : State) (e : EntryId) : (s.endDurable e).mode = s.mode := by
  unfold State.endDurable; split; · rfl
  · rw [State.mode_goDone]; split <;> simp

@[simp] theorem State.kept_giveResult (s : State) (f : Option PageFailure) (e : EntryId) : (s.giveResult f e).kept = s.kept := by
  unfold State.giveResult; split; · rfl
  · have h := s.kept_mapEntry e (·.takeResult f) (fun _ => rfl)
    simp only []; split
    · rw [State.kept_endDurable]; exact h
    · exact h

@[simp] theorem State.engine_giveResult (s : State) (f : Option PageFailure) (e : EntryId) : (s.giveResult f e).host.engine = s.host.engine := by
  unfold State.giveResult; split; · rfl
  · simp only []; split
    · rw [State.engine_endDurable]; rfl
    · rfl

@[simp] theorem State.mode_giveResult (s : State) (f : Option PageFailure) (e : EntryId) : (s.giveResult f e).mode = s.mode := by
  unfold State.giveResult; split; · rfl
  · simp only []; split
    · rw [State.mode_endDurable]; rfl
    · rfl

@[simp] theorem State.kept_reportFlush (s : State) (e : EntryId) : (s.reportFlush e).kept = s.kept := by
  unfold State.reportFlush; split; · rfl
  · rw [State.kept_goDone]; rfl

@[simp] theorem State.engine_reportFlush (s : State) (e : EntryId) : (s.reportFlush e).host.engine = s.host.engine := by
  unfold State.reportFlush; split; · rfl
  · rw [State.engine_goDone]

@[simp] theorem State.mode_reportFlush (s : State) (e : EntryId) : (s.reportFlush e).mode = s.mode := by
  unfold State.reportFlush; split; · rfl
  · rw [State.mode_goDone]; rfl

@[simp] theorem State.kept_reportFlushes (s : State) : (s.reportFlushes).kept = s.kept := by
  exact kept_foldl _ State.kept_reportFlush _ s

@[simp] theorem State.engine_reportFlushes (s : State) : (s.reportFlushes).host.engine = s.host.engine := by
  exact engine_foldl _ State.engine_reportFlush _ s

@[simp] theorem State.mode_reportFlushes (s : State) : (s.reportFlushes).mode = s.mode := by
  exact mode_foldl _ State.mode_reportFlush _ s

/-! ### Devices and the Profile Loader -/

@[simp] theorem State.kept_bootAwake (s : State) (d : DevicePos) : (s.bootAwake d).kept = s.kept := by
  unfold State.bootAwake; split <;> rfl

@[simp] theorem State.engine_bootAwake (s : State) (d : DevicePos) : (s.bootAwake d).host.engine = s.host.engine := by
  unfold State.bootAwake; split <;> rfl

@[simp] theorem State.mode_bootAwake (s : State) (d : DevicePos) : (s.bootAwake d).mode = s.mode := by
  unfold State.bootAwake; split <;> rfl

@[simp] theorem State.kept_enterIdle (s : State) (d : DevicePos) : (s.enterIdle d).kept = s.kept := by
  unfold State.enterIdle; simp

@[simp] theorem State.engine_enterIdle (s : State) (d : DevicePos) : (s.enterIdle d).host.engine = s.host.engine := by
  unfold State.enterIdle; simp

@[simp] theorem State.mode_enterIdle (s : State) (d : DevicePos) : (s.enterIdle d).mode = s.mode := by
  unfold State.enterIdle; simp

@[simp] theorem State.kept_geometryChanged (s : State) (d : DevicePos) (x y : Bool) : (s.geometryChanged d x y).kept = s.kept := by
  unfold State.geometryChanged; split <;> try simp
  split <;> simp

@[simp] theorem State.engine_geometryChanged (s : State) (d : DevicePos) (x y : Bool) : (s.geometryChanged d x y).host.engine = s.host.engine := by
  unfold State.geometryChanged; split <;> try simp
  split <;> simp

@[simp] theorem State.mode_geometryChanged (s : State) (d : DevicePos) (x y : Bool) : (s.geometryChanged d x y).mode = s.mode := by
  unfold State.geometryChanged; split <;> try simp
  split <;> simp

@[simp] theorem State.kept_applyGeometry (s : State) (d : DevicePos) (g : Option Geometry) : (s.applyGeometry d g).kept = s.kept := by
  unfold State.applyGeometry; simp

@[simp] theorem State.engine_applyGeometry (s : State) (d : DevicePos) (g : Option Geometry) : (s.applyGeometry d g).host.engine = s.host.engine := by
  unfold State.applyGeometry; simp

@[simp] theorem State.mode_applyGeometry (s : State) (d : DevicePos) (g : Option Geometry) : (s.applyGeometry d g).mode = s.mode := by
  unfold State.applyGeometry; simp

@[simp] theorem State.kept_applyProfile (s : State) (u : Option CopyId) (g : BitVec 32) (gs : Vector (Option Geometry) 8) (zs : Vector (Option Zone) 16) : (s.applyProfile u g gs zs).kept = s.kept := by
  unfold State.applyProfile; rw [kept_foldl _ (fun t d => State.kept_geometryChanged t d _ _)]; rfl

@[simp] theorem State.engine_applyProfile (s : State) (u : Option CopyId) (g : BitVec 32) (gs : Vector (Option Geometry) 8) (zs : Vector (Option Zone) 16) : (s.applyProfile u g gs zs).host.engine = s.host.engine := by
  unfold State.applyProfile; rw [engine_foldl _ (fun t d => State.engine_geometryChanged t d _ _)]

@[simp] theorem State.mode_applyProfile (s : State) (u : Option CopyId) (g : BitVec 32) (gs : Vector (Option Geometry) 8) (zs : Vector (Option Zone) 16) : (s.applyProfile u g gs zs).mode = s.mode := by
  unfold State.applyProfile; rw [mode_foldl _ (fun t d => State.mode_geometryChanged t d _ _)]; rfl

@[simp] theorem State.kept_applyDefault (s : State) : (s.applyDefault).kept = s.kept := by
  unfold State.applyDefault; simp; rfl

@[simp] theorem State.engine_applyDefault (s : State) : (s.applyDefault).host.engine = s.host.engine := by
  unfold State.applyDefault; simp

@[simp] theorem State.mode_applyDefault (s : State) : (s.applyDefault).mode = s.mode := by
  unfold State.applyDefault; simp; rfl

@[simp] theorem State.kept_chooseProfile (s : State) (a b : Option Profile) : (s.chooseProfile a b).kept = s.kept := by
  unfold State.chooseProfile; split <;> try simp
  split <;> simp

@[simp] theorem State.engine_chooseProfile (s : State) (a b : Option Profile) : (s.chooseProfile a b).host.engine = s.host.engine := by
  unfold State.chooseProfile; split <;> try simp
  split <;> simp

@[simp] theorem State.mode_chooseProfile (s : State) (a b : Option Profile) : (s.chooseProfile a b).mode = s.mode := by
  unfold State.chooseProfile; split <;> try simp
  split <;> simp

theorem State.kept_loadEnd (s t : State) (h : s.loadEnd? = some t) : t.kept = s.kept ∧ t.host.engine = s.host.engine := by
  unfold State.loadEnd? at h
  split at h
  · cases h; simp only []; split <;> exact ⟨rfl, rfl⟩
  · cases h

/-! ### Barrier orders and the end of a buffer -/

@[simp] theorem State.kept_actSetZone (s : State) (e : EntryId) (x : Entry) : (s.actSetZone e x).kept = s.kept := by
  unfold State.actSetZone; split
  · simp
  · simp; rfl

@[simp] theorem State.engine_actSetZone (s : State) (e : EntryId) (x : Entry) : (s.actSetZone e x).host.engine = s.host.engine := by
  unfold State.actSetZone; split <;> simp

@[simp] theorem State.mode_actSetZone (s : State) (e : EntryId) (x : Entry) : (s.actSetZone e x).mode = s.mode := by
  unfold State.actSetZone; split; · simp
  · simp; rfl

@[simp] theorem State.kept_actSetGeometry (s : State) (e : EntryId) (x : Entry) : (s.actSetGeometry e x).kept = s.kept := by
  unfold State.actSetGeometry; simp

@[simp] theorem State.engine_actSetGeometry (s : State) (e : EntryId) (x : Entry) : (s.actSetGeometry e x).host.engine = s.host.engine := by
  unfold State.actSetGeometry; simp

@[simp] theorem State.mode_actSetGeometry (s : State) (e : EntryId) (x : Entry) : (s.actSetGeometry e x).mode = s.mode := by
  unfold State.actSetGeometry; simp

@[simp] theorem State.kept_actStoreProfile (s : State) (e : EntryId) : (s.actStoreProfile e).kept = s.kept := by
  unfold State.actStoreProfile; split; · simp
  · rw [State.kept_mapTurn]; exact s.kept_mapEntry e _ (fun _ => rfl)

@[simp] theorem State.engine_actStoreProfile (s : State) (e : EntryId) : (s.actStoreProfile e).host.engine = s.host.engine := by
  unfold State.actStoreProfile; split; · simp
  · rfl

@[simp] theorem State.mode_actStoreProfile (s : State) (e : EntryId) : (s.actStoreProfile e).mode = s.mode := by
  unfold State.actStoreProfile; split; · simp
  · rfl

@[simp] theorem State.kept_actBarrier (s : State) : (s.actBarrier).kept = s.kept := by
  unfold State.actBarrier; split; · rfl
  · split <;> simp

@[simp] theorem State.engine_actBarrier (s : State) : (s.actBarrier).host.engine = s.host.engine := by
  unfold State.actBarrier; split; · rfl
  · split <;> simp

@[simp] theorem State.mode_actBarrier (s : State) : (s.actBarrier).mode = s.mode := by
  unfold State.actBarrier; split; · rfl
  · split <;> simp

@[simp] theorem State.kept_freeBuffer (s : State) (b : BufferId) (d : DevicePos) : (s.freeBuffer b d).kept = s.kept := by
  unfold State.freeBuffer
  rw [State.kept_mapEntries _ _ (fun x => by unfold Entry.unwatch; split <;> rfl)]; simp; rfl

@[simp] theorem State.engine_freeBuffer (s : State) (b : BufferId) (d : DevicePos) : (s.freeBuffer b d).host.engine = s.host.engine := by
  rfl

@[simp] theorem State.mode_freeBuffer (s : State) (b : BufferId) (d : DevicePos) : (s.freeBuffer b d).mode = s.mode := by
  rfl

theorem State.kept_giveAll (s : State) (f : Option PageFailure) (l : List EntryId) :
    (l.foldl (fun t e => t.giveResult f e) s).kept = s.kept := kept_foldl _ (fun t e => State.kept_giveResult t f e) l s

theorem State.engine_giveAll (s : State) (f : Option PageFailure) (l : List EntryId) :
    (l.foldl (fun t e => t.giveResult f e) s).host.engine = s.host.engine :=
  engine_foldl _ (fun t e => State.engine_giveResult t f e) l s

theorem State.mode_giveAll (s : State) (f : Option PageFailure) (l : List EntryId) :
    (l.foldl (fun t e => t.giveResult f e) s).mode = s.mode :=
  mode_foldl _ (fun t e => State.mode_giveResult t f e) l s

@[simp] theorem State.kept_endBufferQuiet (s : State) (b : BufferId) (f : Option Cause) :
    (s.endBufferQuiet b f).kept = s.kept := by
  unfold State.endBufferQuiet; split; · rfl
  · rw [State.kept_freeBuffer]; split
    · split
      · rw [State.kept_noteFailure, State.kept_giveAll]
      · rw [State.kept_giveAll]
    · rw [State.kept_giveAll]

@[simp] theorem State.engine_endBufferQuiet (s : State) (b : BufferId) (f : Option Cause) :
    (s.endBufferQuiet b f).host.engine = s.host.engine := by
  unfold State.endBufferQuiet; split; · rfl
  · rw [State.engine_freeBuffer]; split
    · split
      · rw [State.engine_noteFailure, State.engine_giveAll]
      · rw [State.engine_giveAll]
    · rw [State.engine_giveAll]

@[simp] theorem State.mode_endBufferQuiet (s : State) (b : BufferId) (f : Option Cause) :
    (s.endBufferQuiet b f).mode = s.mode := by
  unfold State.endBufferQuiet; split; · rfl
  · rw [State.mode_freeBuffer]; split
    · split
      · rw [State.mode_noteFailure, State.mode_giveAll]
      · rw [State.mode_giveAll]
    · rw [State.mode_giveAll]

@[simp] theorem State.kept_endBuffer (s : State) (b : BufferId) (f : Option Cause) : (s.endBuffer b f).kept = s.kept := by
  unfold State.endBuffer; simp

@[simp] theorem State.engine_endBuffer (s : State) (b : BufferId) (f : Option Cause) : (s.endBuffer b f).host.engine = s.host.engine := by
  unfold State.endBuffer; simp

@[simp] theorem State.mode_endBuffer (s : State) (b : BufferId) (f : Option Cause) : (s.endBuffer b f).mode = s.mode := by
  unfold State.endBuffer; simp

/-! ### Gather Engine -/

@[simp] theorem State.kept_endGather (s : State) :
    (s.endGather).kept = s.kept := by
  unfold State.endGather; split; · rfl
  · split
    · dsimp only; split
      · simp
      · rw [State.kept_releaseTurn]; refine (State.kept_mapEntry _ _ _ ?_).trans (State.kept_closeAll _ _); intro x; rfl
    · simp only [State.kept_releaseTurn, State.kept_goDone]; split <;> simp

@[simp] theorem State.engine_endGather (s : State) :
    (s.endGather).host.engine = s.host.engine := by
  unfold State.endGather; split; · rfl
  · split
    · dsimp only; split
      · simp
      · simp
    · simp only [State.engine_releaseTurn, State.engine_goDone]; split <;> simp

@[simp] theorem State.mode_endGather (s : State) :
    (s.endGather).mode = s.mode := by
  unfold State.endGather; split; · rfl
  · split
    · dsimp only; split
      · simp
      · simp
    · simp only [State.mode_releaseTurn, State.mode_goDone]; split <;> simp

@[simp] theorem State.kept_failWrite (s : State) :
    (s.failWrite).kept = s.kept := by
  unfold State.failWrite; split; · rfl
  · simp

@[simp] theorem State.engine_failWrite (s : State) :
    (s.failWrite).host.engine = s.host.engine := by
  unfold State.failWrite; split; · rfl
  · simp

@[simp] theorem State.mode_failWrite (s : State) :
    (s.failWrite).mode = s.mode := by
  unfold State.failWrite; split; · rfl
  · simp

@[simp] theorem State.kept_gatherOffline (s : State) (d : DevicePos) :
    (s.gatherOffline d).kept = s.kept := by
  unfold State.gatherOffline; split; · rfl
  · split
    · simp only [State.kept_releaseTurn, State.kept_goDone, State.kept_leaveContributors, State.kept_giveUp]; split <;> simp
    · rfl

@[simp] theorem State.mode_gatherOffline (s : State) (d : DevicePos) :
    (s.gatherOffline d).mode = s.mode := by
  unfold State.gatherOffline; split; · rfl
  · split
    · simp only [State.mode_releaseTurn, State.mode_goDone, State.mode_leaveContributors, State.mode_giveUp]; split <;> simp
    · rfl

@[simp] theorem State.kept_mergeSpan (s : State) (t : Turn) (x : Entry) (sp : Span) (bs : List Byte) (b : BufferId) :
    (s.mergeSpan t x sp bs b).kept = s.kept := by
  have h : ∀ u : State, u.kept = s.kept → (if u.pageFull b then u.closeBuffer b else u).kept = s.kept := by
    intro u hu; split <;> simp [hu]
  have k := State.kept_mapEntry (s.mapBuffer b (s.mergedBuffer t.entry x (sp.address % s.pageSize x.position) bs)) t.entry
    (fun x => { x with progress := x.progress + sp.length }) (fun _ => rfl)
  unfold State.mergeSpan; dsimp only; split
  · rw [State.kept_endGather]; exact h _ k
  · exact h _ k

@[simp] theorem State.engine_mergeSpan (s : State) (t : Turn) (x : Entry) (sp : Span) (bs : List Byte) (b : BufferId) :
    (s.mergeSpan t x sp bs b).host.engine = s.host.engine := by
  have h : ∀ u : State, u.host.engine = s.host.engine → (if u.pageFull b then u.closeBuffer b else u).host.engine = s.host.engine := by
    intro u hu; split <;> simp [hu]
  unfold State.mergeSpan; dsimp only; split
  · rw [State.engine_endGather]; exact h _ rfl
  · exact h _ rfl

@[simp] theorem State.mode_mergeSpan (s : State) (t : Turn) (x : Entry) (sp : Span) (bs : List Byte) (b : BufferId) :
    (s.mergeSpan t x sp bs b).mode = s.mode := by
  have h : ∀ u : State, u.mode = s.mode → (if u.pageFull b then u.closeBuffer b else u).mode = s.mode := by
    intro u hu; split <;> simp [hu]
  unfold State.mergeSpan; dsimp only; split
  · rw [State.mode_endGather]; exact h _ rfl
  · exact h _ rfl

@[simp] theorem State.kept_askPool (s : State) (t : Turn) (x : Entry) (sp : Span) (bs : List Byte) :
    (s.askPool t x sp bs).kept = s.kept := by
  unfold State.askPool; dsimp only; split; · rfl
  · split
    · split <;> simp
    · rfl

@[simp] theorem State.engine_askPool (s : State) (t : Turn) (x : Entry) (sp : Span) (bs : List Byte) :
    (s.askPool t x sp bs).host.engine = s.host.engine := by
  unfold State.askPool; dsimp only; split; · rfl
  · split
    · split <;> simp
    · rfl

@[simp] theorem State.mode_askPool (s : State) (t : Turn) (x : Entry) (sp : Span) (bs : List Byte) :
    (s.askPool t x sp bs).mode = s.mode := by
  unfold State.askPool; dsimp only; split; · rfl
  · split
    · split <;> simp
    · rfl

@[simp] theorem State.kept_applyPressure (s : State) (r : AllocRequest) :
    (s.applyPressure r).kept = s.kept := by
  unfold State.applyPressure; dsimp only; split
  · exact State.kept_closeBuffer _ _
  · rfl

@[simp] theorem State.engine_applyPressure (s : State) (r : AllocRequest) :
    (s.applyPressure r).host.engine = s.host.engine := by
  unfold State.applyPressure; dsimp only; split
  · exact State.engine_closeBuffer _ _
  · rfl

@[simp] theorem State.mode_applyPressure (s : State) (r : AllocRequest) :
    (s.applyPressure r).mode = s.mode := by
  unfold State.applyPressure; dsimp only; split
  · exact State.mode_closeBuffer _ _
  · rfl

@[simp] theorem State.kept_serveWith (s : State) (t : Turn) (x : Entry) (sp : Span) (bs : List Byte) (r : AllocRequest) (b : BufferId) :
    (s.serveWith t x sp bs r b).kept = s.kept := by
  unfold State.serveWith; rw [State.kept_mergeSpan]; rfl

@[simp] theorem State.engine_serveWith (s : State) (t : Turn) (x : Entry) (sp : Span) (bs : List Byte) (r : AllocRequest) (b : BufferId) :
    (s.serveWith t x sp bs r b).host.engine = s.host.engine := by
  unfold State.serveWith; rw [State.engine_mergeSpan]; rfl

@[simp] theorem State.mode_serveWith (s : State) (t : Turn) (x : Entry) (sp : Span) (bs : List Byte) (r : AllocRequest) (b : BufferId) :
    (s.serveWith t x sp bs r b).mode = s.mode := by
  unfold State.serveWith; rw [State.mode_mergeSpan]; rfl

theorem State.kept_workRequest (s : State) (t : Turn) (x : Entry) (sp : Span) (bs : List Byte) (r : AllocRequest) (u : State)
    (h : s.workRequest t x sp bs r = some u) : u.kept = s.kept ∧ u.host.engine = s.host.engine := by
  unfold State.workRequest at h
  split at h; · cases h
  · split at h
    · cases h; simp
    · split at h
      · cases h
      · cases h; simp

theorem State.mode_workRequest (s : State) (t : Turn) (x : Entry) (sp : Span) (bs : List Byte) (r : AllocRequest) (u : State)
    (h : s.workRequest t x sp bs r = some u) : u.mode = s.mode := by
  unfold State.workRequest at h
  split at h; · cases h
  · split at h
    · cases h; simp
    · split at h
      · cases h
      · cases h; simp

theorem State.kept_serveRequest (s : State) (t : State) (h : s.serveRequest? = some t) :
    t.kept = s.kept ∧ t.host.engine = s.host.engine := by
  unfold State.serveRequest? at h
  split at h
  · split at h
    · split at h
      · cases h
      · cases h; simp
    · cases h
  · cases h

theorem State.mode_serveRequest (s : State) (t : State) (h : s.serveRequest? = some t) :
    t.mode = s.mode := by
  unfold State.serveRequest? at h
  split at h
  · split at h
    · split at h
      · cases h
      · cases h; simp
    · cases h
  · cases h

@[simp] theorem State.kept_takeGatherSpan (s : State) (t : Turn) (x : Entry) :
    (s.takeGatherSpan t x).kept = s.kept := by
  unfold State.takeGatherSpan; dsimp only; split <;> simp

@[simp] theorem State.engine_takeGatherSpan (s : State) (t : Turn) (x : Entry) :
    (s.takeGatherSpan t x).host.engine = s.host.engine := by
  unfold State.takeGatherSpan; dsimp only; split <;> simp

@[simp] theorem State.mode_takeGatherSpan (s : State) (t : Turn) (x : Entry) :
    (s.takeGatherSpan t x).mode = s.mode := by
  unfold State.takeGatherSpan; dsimp only; split <;> simp

@[simp] theorem State.kept_startMerging (s : State) (e : EntryId) (x : Entry) (w : TurnWork) :
    (s.startMerging e x w).kept = s.kept := by
  unfold State.startMerging; split <;> simp

@[simp] theorem State.engine_startMerging (s : State) (e : EntryId) (x : Entry) (w : TurnWork) :
    (s.startMerging e x w).host.engine = s.host.engine := by
  unfold State.startMerging; split <;> simp

@[simp] theorem State.mode_startMerging (s : State) (e : EntryId) (x : Entry) (w : TurnWork) :
    (s.startMerging e x w).mode = s.mode := by
  unfold State.startMerging; split <;> simp

@[simp] theorem State.kept_takeWatch (s : State) (e : EntryId) (st : OrderState) (p : Buffer → Bool) :
    (s.takeWatch e st p).kept = s.kept := by
  refine (State.kept_mapEntry _ e _ ?_).trans (State.kept_closeAll _ _); intro x; rfl

@[simp] theorem State.engine_takeWatch (s : State) (e : EntryId) (st : OrderState) (p : Buffer → Bool) :
    (s.takeWatch e st p).host.engine = s.host.engine := by
  exact State.engine_closeAll _ _

@[simp] theorem State.mode_takeWatch (s : State) (e : EntryId) (st : OrderState) (p : Buffer → Bool) :
    (s.takeWatch e st p).mode = s.mode := by
  exact State.mode_closeAll _ _

@[simp] theorem State.kept_startFlush (s : State) (e : EntryId) (x : Entry) :
    (s.startFlush e x).kept = s.kept := by
  unfold State.startFlush; dsimp only; split; · simp
  · split <;> simp

@[simp] theorem State.engine_startFlush (s : State) (e : EntryId) (x : Entry) :
    (s.startFlush e x).host.engine = s.host.engine := by
  unfold State.startFlush; dsimp only; split; · simp
  · split <;> simp

@[simp] theorem State.mode_startFlush (s : State) (e : EntryId) (x : Entry) :
    (s.startFlush e x).mode = s.mode := by
  unfold State.startFlush; dsimp only; split; · simp
  · split <;> simp

@[simp] theorem State.kept_startBarrier (s : State) (e : EntryId) (st : OrderState) (p : Buffer → Bool) :
    (s.startBarrier e st p).kept = s.kept := by
  unfold State.startBarrier; simp

@[simp] theorem State.engine_startBarrier (s : State) (e : EntryId) (st : OrderState) (p : Buffer → Bool) :
    (s.startBarrier e st p).host.engine = s.host.engine := by
  unfold State.startBarrier; simp

@[simp] theorem State.mode_startBarrier (s : State) (e : EntryId) (st : OrderState) (p : Buffer → Bool) :
    (s.startBarrier e st p).mode = s.mode := by
  unfold State.startBarrier; simp

@[simp] theorem State.kept_startSetZone (s : State) (e : EntryId) (x : Entry) :
    (s.startSetZone e x).kept = s.kept := by
  unfold State.startSetZone; split <;> simp

@[simp] theorem State.engine_startSetZone (s : State) (e : EntryId) (x : Entry) :
    (s.startSetZone e x).host.engine = s.host.engine := by
  unfold State.startSetZone; split <;> simp

@[simp] theorem State.mode_startSetZone (s : State) (e : EntryId) (x : Entry) :
    (s.startSetZone e x).mode = s.mode := by
  unfold State.startSetZone; split <;> simp

@[simp] theorem State.kept_startSetGeometry (s : State) (e : EntryId) (x : Entry) :
    (s.startSetGeometry e x).kept = s.kept := by
  unfold State.startSetGeometry; split <;> simp

@[simp] theorem State.engine_startSetGeometry (s : State) (e : EntryId) (x : Entry) :
    (s.startSetGeometry e x).host.engine = s.host.engine := by
  unfold State.startSetGeometry; split <;> simp

@[simp] theorem State.mode_startSetGeometry (s : State) (e : EntryId) (x : Entry) :
    (s.startSetGeometry e x).mode = s.mode := by
  unfold State.startSetGeometry; split <;> simp

@[simp] theorem State.kept_startStoreProfile (s : State) (e : EntryId) :
    (s.startStoreProfile e).kept = s.kept := by
  unfold State.startStoreProfile; split; · simp
  · split; · simp
    · rw [State.kept_startBarrier]; exact s.kept_mapEntry e _ (fun _ => rfl)

@[simp] theorem State.engine_startStoreProfile (s : State) (e : EntryId) :
    (s.startStoreProfile e).host.engine = s.host.engine := by
  unfold State.startStoreProfile; split; · simp
  · split; · simp
    · rw [State.engine_startBarrier]; rfl

@[simp] theorem State.mode_startStoreProfile (s : State) (e : EntryId) :
    (s.startStoreProfile e).mode = s.mode := by
  unfold State.startStoreProfile; split; · simp
  · split; · simp
    · rw [State.mode_startBarrier]; rfl

@[simp] theorem State.kept_startHead (s : State) (e : EntryId) (x : Entry) :
    (s.startHead e x).kept = s.kept := by
  unfold State.startHead; split <;> simp

@[simp] theorem State.engine_startHead (s : State) (e : EntryId) (x : Entry) :
    (s.startHead e x).host.engine = s.host.engine := by
  unfold State.startHead; split <;> simp

@[simp] theorem State.mode_startHead (s : State) (e : EntryId) (x : Entry) :
    (s.startHead e x).mode = s.mode := by
  unfold State.startHead; split <;> simp

theorem State.kept_gatherStep (s : State) (t : State) (h : s.gatherStep? = some t) :
    t.kept = s.kept ∧ t.host.engine = s.host.engine := by
  unfold State.gatherStep? at h
  split at h
  · cases k : s.headToStart with
    | none => simp [k] at h
    | some p => simp [k] at h; subst h; simp
  · split at h
    · cases h
    · split at h
      · split at h
        · cases h
        · cases h; simp
      · cases h
      · split at h
        · cases h; simp
        · exact s.kept_workRequest _ _ _ _ _ _ h

theorem State.mode_gatherStep (s : State) (t : State) (h : s.gatherStep? = some t) :
    t.mode = s.mode := by
  unfold State.gatherStep? at h
  split at h
  · cases k : s.headToStart with
    | none => simp [k] at h
    | some p => simp [k] at h; subst h; simp
  · split at h
    · cases h
    · split at h
      · split at h
        · cases h
        · cases h; simp
      · cases h
      · split at h
        · cases h; simp
        · exact s.mode_workRequest _ _ _ _ _ _ h

/-! ### Read Engine -/

@[simp] theorem State.kept_assemble (s : State) (a : ActiveRead) (x : Entry) (st : List Staged) :
    (s.assemble a x st).kept = s.kept := by
  unfold State.assemble; dsimp only; rw [State.kept_requestMaster]; split
  · exact State.kept_mapEntry _ _ _ (fun _ => rfl)
  · rfl

@[simp] theorem State.engine_assemble (s : State) (a : ActiveRead) (x : Entry) (st : List Staged) :
    (s.assemble a x st).host.engine = s.host.engine := by
  unfold State.assemble; dsimp only; rw [State.engine_requestMaster]; split <;> rfl

@[simp] theorem State.mode_assemble (s : State) (a : ActiveRead) (x : Entry) (st : List Staged) :
    (s.assemble a x st).mode = s.mode := by
  unfold State.assemble; dsimp only; rw [State.mode_requestMaster]; split <;> rfl

@[simp] theorem State.kept_askDevice (s : State) (e : EntryId) (d : DevicePos) :
    (s.askDevice e d).kept = s.kept := by
  unfold State.askDevice; split <;> simp

@[simp] theorem State.engine_askDevice (s : State) (e : EntryId) (d : DevicePos) :
    (s.askDevice e d).host.engine = s.host.engine := by
  unfold State.askDevice; split <;> simp

@[simp] theorem State.mode_askDevice (s : State) (e : EntryId) (d : DevicePos) :
    (s.askDevice e d).mode = s.mode := by
  unfold State.askDevice; split <;> simp

@[simp] theorem State.kept_takeReadSpan (s : State) (e : EntryId) :
    (s.takeReadSpan e).kept = s.kept := by
  unfold State.takeReadSpan; split; · rfl
  · dsimp only; split <;> simp

@[simp] theorem State.engine_takeReadSpan (s : State) (e : EntryId) :
    (s.takeReadSpan e).host.engine = s.host.engine := by
  unfold State.takeReadSpan; split; · rfl
  · dsimp only; split <;> simp

@[simp] theorem State.mode_takeReadSpan (s : State) (e : EntryId) :
    (s.takeReadSpan e).mode = s.mode := by
  unfold State.takeReadSpan; split; · rfl
  · dsimp only; split <;> simp

@[simp] theorem State.kept_overlayRead (s : State) (a : ActiveRead) (x : Entry) (lo : Nat) (bs : List Byte) :
    (s.overlayRead a x lo bs).kept = s.kept := by
  unfold State.overlayRead; dsimp only; split <;> simp

@[simp] theorem State.engine_overlayRead (s : State) (a : ActiveRead) (x : Entry) (lo : Nat) (bs : List Byte) :
    (s.overlayRead a x lo bs).host.engine = s.host.engine := by
  unfold State.overlayRead; dsimp only; split <;> simp

@[simp] theorem State.mode_overlayRead (s : State) (a : ActiveRead) (x : Entry) (lo : Nat) (bs : List Byte) :
    (s.overlayRead a x lo bs).mode = s.mode := by
  unfold State.overlayRead; dsimp only; split <;> simp

@[simp] theorem State.kept_startRead (s : State) (e : EntryId) :
    (s.startRead e).kept = s.kept := by
  have k := s.kept_mapEntry e (fun x => { x with state := .active }) (fun _ => rfl)
  unfold State.startRead; dsimp only; split
  · exact k
  · split
    · rw [State.kept_goDone]; exact k
    · rw [State.kept_takeReadSpan]; exact k

@[simp] theorem State.engine_startRead (s : State) (e : EntryId) :
    (s.startRead e).host.engine = s.host.engine := by
  unfold State.startRead; dsimp only; split
  · rfl
  · split <;> simp

@[simp] theorem State.mode_startRead (s : State) (e : EntryId) :
    (s.startRead e).mode = s.mode := by
  unfold State.startRead; dsimp only; split
  · rfl
  · split <;> simp <;> rfl

@[simp] theorem State.kept_resumeRead (s : State) (e : EntryId) :
    (s.resumeRead e).kept = s.kept := by
  unfold State.resumeRead; rw [State.kept_takeReadSpan]; exact s.kept_mapEntry e (fun x => { x with state := .active }) (fun _ => rfl)

@[simp] theorem State.engine_resumeRead (s : State) (e : EntryId) :
    (s.resumeRead e).host.engine = s.host.engine := by
  unfold State.resumeRead; rw [State.engine_takeReadSpan]; rfl

@[simp] theorem State.mode_resumeRead (s : State) (e : EntryId) :
    (s.resumeRead e).mode = s.mode := by
  unfold State.resumeRead; rw [State.mode_takeReadSpan]; rfl

theorem State.kept_readStep (s : State) (t : State) (h : s.readStep? = some t) :
    t.kept = s.kept ∧ t.host.engine = s.host.engine := by
  unfold State.readStep? at h
  split at h
  · cases h; simp
  · cases k : s.readToStart with
    | none => simp [k] at h
    | some e => simp [k] at h; subst h; simp

theorem State.mode_readStep (s : State) (t : State) (h : s.readStep? = some t) :
    t.mode = s.mode := by
  unfold State.readStep? at h
  split at h
  · cases h; simp
  · cases k : s.readToStart with
    | none => simp [k] at h
    | some e => simp [k] at h; subst h; simp

@[simp] theorem State.kept_delivered (s : State) (a : ActiveRead) (x : Entry) :
    (s.delivered a x).kept = s.kept := by
  have h : ∀ n, (s.mapEntry a.entry fun x => { x with progress := x.progress + n }).kept = s.kept :=
    fun n => s.kept_mapEntry _ _ (fun _ => rfl)
  unfold State.delivered; split <;> simp [h]

@[simp] theorem State.engine_delivered (s : State) (a : ActiveRead) (x : Entry) :
    (s.delivered a x).host.engine = s.host.engine := by
  unfold State.delivered; split <;> simp

@[simp] theorem State.mode_delivered (s : State) (a : ActiveRead) (x : Entry) :
    (s.delivered a x).mode = s.mode := by
  unfold State.delivered; split <;> simp

@[simp] theorem State.kept_deliveryFailed (s : State) (a : ActiveRead) (x : Entry) :
    (s.deliveryFailed a x).kept = s.kept := by
  unfold State.deliveryFailed; simp

@[simp] theorem State.engine_deliveryFailed (s : State) (a : ActiveRead) (x : Entry) :
    (s.deliveryFailed a x).host.engine = s.host.engine := by
  unfold State.deliveryFailed; simp

@[simp] theorem State.mode_deliveryFailed (s : State) (a : ActiveRead) (x : Entry) :
    (s.deliveryFailed a x).mode = s.mode := by
  unfold State.deliveryFailed; simp

@[simp] theorem State.kept_readOffline (s : State) (e : EntryId) :
    (s.readOffline e).kept = s.kept := by
  unfold State.readOffline; split; · rfl
  · simp

@[simp] theorem State.mode_readOffline (s : State) (e : EntryId) :
    (s.readOffline e).mode = s.mode := by
  unfold State.readOffline; split; · rfl
  · simp

@[simp] theorem State.kept_readsOffline (s : State) (d : DevicePos) :
    (s.readsOffline d).kept = s.kept := by
  unfold State.readsOffline; dsimp only; rw [kept_foldl _ State.kept_readOffline]
  split
  · exact (State.kept_readOffline _ _)
  · rfl

@[simp] theorem State.mode_readsOffline (s : State) (d : DevicePos) :
    (s.readsOffline d).mode = s.mode := by
  unfold State.readsOffline; dsimp only; rw [mode_foldl _ State.mode_readOffline]
  split
  · exact (State.mode_readOffline _ _)
  · rfl

/-! ### Channel Engines -/

@[simp] theorem State.kept_enterSlot (s : State) (b : BufferId) (y : Buffer) :
    (s.enterSlot b y).kept = s.kept := by
  unfold State.enterSlot; rfl

@[simp] theorem State.engine_enterSlot (s : State) (b : BufferId) (y : Buffer) :
    (s.enterSlot b y).host.engine = s.host.engine := by
  unfold State.enterSlot; rfl

@[simp] theorem State.mode_enterSlot (s : State) (b : BufferId) (y : Buffer) :
    (s.enterSlot b y).mode = s.mode := by
  unfold State.enterSlot; rfl

@[simp] theorem State.kept_takeBuffer (s : State) (b : BufferId) :
    (s.takeBuffer b).kept = s.kept := by
  unfold State.takeBuffer; split; · rfl
  · split <;> simp

@[simp] theorem State.engine_takeBuffer (s : State) (b : BufferId) :
    (s.takeBuffer b).host.engine = s.host.engine := by
  unfold State.takeBuffer; split; · rfl
  · split <;> simp

@[simp] theorem State.mode_takeBuffer (s : State) (b : BufferId) :
    (s.takeBuffer b).mode = s.mode := by
  unfold State.takeBuffer; split; · rfl
  · split <;> simp

theorem State.kept_takeStep (s : State) (c : ChannelId) (t : State) (h : s.takeStep? c = some t) :
    t.kept = s.kept ∧ t.host.engine = s.host.engine := by
  unfold State.takeStep? at h
  cases k : (s.channel c).queue.find? s.mayTake with
  | none => simp [k] at h
  | some b => simp [k] at h; subst h; simp

theorem State.mode_takeStep (s : State) (c : ChannelId) (t : State) (h : s.takeStep? c = some t) :
    t.mode = s.mode := by
  unfold State.takeStep? at h
  cases k : (s.channel c).queue.find? s.mayTake with
  | none => simp [k] at h
  | some b => simp [k] at h; subst h; simp

@[simp] theorem State.kept_failAttempt (s : State) (b : BufferId) (c : Cause) :
    (s.failAttempt b c).kept = s.kept := by
  unfold State.failAttempt; split; · rfl
  · dsimp only; split <;> simp

@[simp] theorem State.engine_failAttempt (s : State) (b : BufferId) (c : Cause) :
    (s.failAttempt b c).host.engine = s.host.engine := by
  unfold State.failAttempt; split; · rfl
  · dsimp only; split <;> simp

@[simp] theorem State.mode_failAttempt (s : State) (b : BufferId) (c : Cause) :
    (s.failAttempt b c).mode = s.mode := by
  unfold State.failAttempt; split; · rfl
  · dsimp only; split <;> simp

@[simp] theorem State.kept_succeed (s : State) (b : BufferId) :
    (s.succeed b).kept = s.kept := by
  unfold State.succeed; split <;> simp

@[simp] theorem State.engine_succeed (s : State) (b : BufferId) :
    (s.succeed b).host.engine = s.host.engine := by
  unfold State.succeed; split <;> simp

@[simp] theorem State.mode_succeed (s : State) (b : BufferId) :
    (s.succeed b).mode = s.mode := by
  unfold State.succeed; split <;> simp

@[simp] theorem State.kept_cycleGood (s : State) (b : BufferId) :
    (s.cycleGood b).kept = s.kept := by
  unfold State.cycleGood; split; · rfl
  · split <;> simp

@[simp] theorem State.engine_cycleGood (s : State) (b : BufferId) :
    (s.cycleGood b).host.engine = s.host.engine := by
  unfold State.cycleGood; split; · rfl
  · split <;> simp

@[simp] theorem State.mode_cycleGood (s : State) (b : BufferId) :
    (s.cycleGood b).mode = s.mode := by
  unfold State.cycleGood; split; · rfl
  · split <;> simp

@[simp] theorem State.kept_countLostAttempt (s : State) (d : DevicePos) :
    (s.countLostAttempt d).kept = s.kept := by
  unfold State.countLostAttempt; split; · split <;> simp
  · rfl

@[simp] theorem State.engine_countLostAttempt (s : State) (d : DevicePos) :
    (s.countLostAttempt d).host.engine = s.host.engine := by
  unfold State.countLostAttempt; split; · split <;> simp
  · rfl

@[simp] theorem State.mode_countLostAttempt (s : State) (d : DevicePos) :
    (s.countLostAttempt d).mode = s.mode := by
  unfold State.countLostAttempt; split; · split <;> simp
  · rfl

@[simp] theorem State.kept_markOffline (s : State) (d : DevicePos) :
    (s.markOffline d).kept = s.kept := by
  rfl

@[simp] theorem State.mode_markOffline (s : State) (d : DevicePos) :
    (s.markOffline d).mode = s.mode := by
  rfl

@[simp] theorem State.kept_endLostBuffers (s : State) (d : DevicePos) (c : Cause) :
    (s.endLostBuffers d c).kept = s.kept := by
  unfold State.endLostBuffers; rw [State.kept_actBarrier, State.kept_reportFlushes]
  exact kept_foldl _ (fun t b => State.kept_endBufferQuiet t b _) _ s

@[simp] theorem State.mode_endLostBuffers (s : State) (d : DevicePos) (c : Cause) :
    (s.endLostBuffers d c).mode = s.mode := by
  unfold State.endLostBuffers; rw [State.mode_actBarrier, State.mode_reportFlushes]
  exact mode_foldl _ (fun t b => State.mode_endBufferQuiet t b _) _ s

@[simp] theorem State.kept_bootLost (s : State) (d : DevicePos) :
    (s.bootLost d).kept = s.kept := by
  unfold State.bootLost; split <;> simp

@[simp] theorem State.mode_bootLost (s : State) (d : DevicePos) :
    (s.bootLost d).mode = s.mode := by
  unfold State.bootLost; split <;> simp

@[simp] theorem State.kept_goOffline (s : State) (d : DevicePos) (c : Cause) :
    (s.goOffline d c).kept = s.kept := by
  unfold State.goOffline; simp

@[simp] theorem State.mode_goOffline (s : State) (d : DevicePos) (c : Cause) :
    (s.goOffline d c).mode = s.mode := by
  unfold State.goOffline; simp

@[simp] theorem State.kept_grantRevive (s : State) (c : ChannelId) (d : DevicePos) (e : EntryId) :
    (s.grantRevive c d e).kept = s.kept := by
  unfold State.grantRevive; split <;> simp

@[simp] theorem State.engine_grantRevive (s : State) (c : ChannelId) (d : DevicePos) (e : EntryId) :
    (s.grantRevive c d e).host.engine = s.host.engine := by
  unfold State.grantRevive; split <;> simp

@[simp] theorem State.mode_grantRevive (s : State) (c : ChannelId) (d : DevicePos) (e : EntryId) :
    (s.grantRevive c d e).mode = s.mode := by
  unfold State.grantRevive; split <;> simp

@[simp] theorem State.kept_grantHostRead (s : State) (c : ChannelId) (d : DevicePos) :
    (s.grantHostRead c d).kept = s.kept := by
  unfold State.grantHostRead; split; · rfl
  · dsimp only; split <;> simp

@[simp] theorem State.engine_grantHostRead (s : State) (c : ChannelId) (d : DevicePos) :
    (s.grantHostRead c d).host.engine = s.host.engine := by
  unfold State.grantHostRead; split; · rfl
  · dsimp only; split <;> simp

@[simp] theorem State.mode_grantHostRead (s : State) (c : ChannelId) (d : DevicePos) :
    (s.grantHostRead c d).mode = s.mode := by
  unfold State.grantHostRead; split; · rfl
  · dsimp only; split <;> simp

@[simp] theorem State.kept_grantBufferRead (s : State) (c : ChannelId) (d : DevicePos) (b : BufferId) (p : StreamPurpose) :
    (s.grantBufferRead c d b p).kept = s.kept := by
  unfold State.grantBufferRead; split <;> rfl

@[simp] theorem State.engine_grantBufferRead (s : State) (c : ChannelId) (d : DevicePos) (b : BufferId) (p : StreamPurpose) :
    (s.grantBufferRead c d b p).host.engine = s.host.engine := by
  unfold State.grantBufferRead; split <;> rfl

@[simp] theorem State.mode_grantBufferRead (s : State) (c : ChannelId) (d : DevicePos) (b : BufferId) (p : StreamPurpose) :
    (s.grantBufferRead c d b p).mode = s.mode := by
  unfold State.grantBufferRead; split <;> rfl

@[simp] theorem State.kept_grantStart (s : State) (c : ChannelId) (d : DevicePos) (b : BufferId) :
    (s.grantStart c d b).kept = s.kept := by
  unfold State.grantStart; split <;> rfl

@[simp] theorem State.engine_grantStart (s : State) (c : ChannelId) (d : DevicePos) (b : BufferId) :
    (s.grantStart c d b).host.engine = s.host.engine := by
  unfold State.grantStart; split <;> rfl

@[simp] theorem State.mode_grantStart (s : State) (c : ChannelId) (d : DevicePos) (b : BufferId) :
    (s.grantStart c d b).mode = s.mode := by
  unfold State.grantStart; split <;> rfl

@[simp] theorem State.kept_actOnItem (s : State) (c : ChannelId) (i : WorkItem) :
    (s.actOnItem c i).kept = s.kept := by
  unfold State.actOnItem; split <;> try simp
  split <;> simp

@[simp] theorem State.engine_actOnItem (s : State) (c : ChannelId) (i : WorkItem) :
    (s.actOnItem c i).host.engine = s.host.engine := by
  unfold State.actOnItem; split <;> try simp
  split <;> simp

@[simp] theorem State.mode_actOnItem (s : State) (c : ChannelId) (i : WorkItem) :
    (s.actOnItem c i).mode = s.mode := by
  unfold State.actOnItem; split <;> try simp
  split <;> simp

theorem State.kept_grantStep (s : State) (c : ChannelId) (t : State) (h : s.grantStep? c = some t) :
    t.kept = s.kept ∧ t.host.engine = s.host.engine := by
  unfold State.grantStep? at h
  split at h
  · cases h
  · cases k : firstItem (s.channel c).lastGranted ((s.channel c).waiting.filter s.grantable) with
    | none => simp [k] at h
    | some i => simp [k] at h; subst h; simp

theorem State.mode_grantStep (s : State) (c : ChannelId) (t : State) (h : s.grantStep? c = some t) :
    t.mode = s.mode := by
  unfold State.grantStep? at h
  split at h
  · cases h
  · cases k : firstItem (s.channel c).lastGranted ((s.channel c).waiting.filter s.grantable) with
    | none => simp [k] at h
    | some i => simp [k] at h; subst h; simp

theorem State.kept_drainEnd (s : State) (t : State) (h : s.drainEnd? = some t) :
    t.kept = s.kept ∧ t.host.engine = s.host.engine := by
  unfold State.drainEnd? at h
  split at h
  · cases h; exact ⟨rfl, rfl⟩
  · cases h

/-! ### The inside of an event -/

/-- Every follow-on action is one of eight. -/
theorem State.advance_cases (s t : State) (h : s.advance? = some t) :
    s.gatherStep? = some t ∨ s.readStep? = some t ∨ s.takeStep? 0 = some t ∨ s.takeStep? 1 = some t
      ∨ s.grantStep? 0 = some t ∨ s.grantStep? 1 = some t ∨ s.loadEnd? = some t ∨ s.drainEnd? = some t := by
  unfold State.advance? at h
  rcases hg : s.gatherStep? with _ | _ <;> rcases h0 : s.takeStep? 0 with _ | _ <;> rcases h1 : s.takeStep? 1 with _ | _ <;>
    rcases hr : s.readStep? with _ | _ <;> rcases g0 : s.grantStep? 0 with _ | _ <;> rcases g1 : s.grantStep? 1 with _ | _ <;>
    rcases hl : s.loadEnd? with _ | _ <;> simp_all

theorem State.kept_advance (s t : State) (h : s.advance? = some t) : t.kept = s.kept ∧ t.host.engine = s.host.engine := by
  rcases s.advance_cases t h with h | h | h | h | h | h | h | h
  · exact s.kept_gatherStep t h
  · exact s.kept_readStep t h
  · exact s.kept_takeStep 0 t h
  · exact s.kept_takeStep 1 t h
  · exact s.kept_grantStep 0 t h
  · exact s.kept_grantStep 1 t h
  · exact s.kept_loadEnd t h
  · exact s.kept_drainEnd t h

/-- What every follow-on action keeps, the settling of an event keeps. -/
theorem State.settle_induction (P : State → Prop) (step : ∀ s t, P s → s.advance? = some t → P t) (s : State) (h : P s) :
    P s.settle := by
  have : ∀ n s, P s → P (State.settleWithin n s) := by
    intro n
    induction n with
    | zero => intro s h; exact h
    | succ n ih =>
      intro s h
      unfold State.settleWithin
      split
      · exact h
      · exact ih _ (step _ _ h ‹_›)
  exact this _ s h

/-- An event in which nothing follows settles at once. -/
theorem State.settle_of_quiet (s : State) (h : s.advance? = none) : s.settle = s := by
  have : ∀ n, State.settleWithin n s = s := by
    intro n
    cases n with
    | zero => rfl
    | succ n => simp [State.settleWithin, h]
  exact this _

@[simp] theorem State.kept_settle (s : State) : s.settle.kept = s.kept :=
  State.settle_induction (fun t => t.kept = s.kept) (fun _ _ h k => (State.kept_advance _ _ k).1.trans h) s rfl

@[simp] theorem State.engine_settle (s : State) : s.settle.host.engine = s.host.engine :=
  State.settle_induction (fun t => t.host.engine = s.host.engine) (fun _ _ h k => (State.kept_advance _ _ k).2.trans h) s rfl

/-! ### The master arbiter and the end of an event -/

/-- R159: with the engine busy, the part HALTED or a local reset pending, nothing is granted. -/
theorem State.grantMaster_of_not_free (s : State) (h : s.masterFree = false) : s.grantMaster = s := by
  simp [State.grantMaster, h]

theorem State.grantMaster_busy (s : State) (t : Transfer) (h : s.host.engine = some t) : s.grantMaster = s :=
  s.grantMaster_of_not_free (by simp [State.masterFree, h])

theorem State.grantMaster_halted (s : State) (h : s.host.part = .halted) : s.grantMaster = s :=
  s.grantMaster_of_not_free (by simp [State.masterFree, h])

/-- A grant changes the engine, the requests, the waiting setup block read and the urgent run count; the rest of the state stays. -/
theorem State.grantMaster_frame (s : State) :
    ∃ engine requests setupRequest urgentRun,
      s.grantMaster = { s with
        host := { s.host with engine := engine, requests := requests, setupRequest := setupRequest }
        fetch := { s.fetch with urgentRun := urgentRun } } := by
  have keep : ∃ engine requests setupRequest urgentRun,
      s = { s with
        host := { s.host with engine := engine, requests := requests, setupRequest := setupRequest }
        fetch := { s.fetch with urgentRun := urgentRun } } :=
    ⟨s.host.engine, s.host.requests, s.host.setupRequest, s.fetch.urgentRun, rfl⟩
  unfold State.grantMaster
  split
  · exact keep
  · split
    · unfold State.grantPost
      split
      · exact keep
      · exact ⟨_, s.host.requests, s.host.setupRequest, s.fetch.urgentRun, rfl⟩
    · split
      · exact ⟨_, s.host.requests, _, s.fetch.urgentRun, rfl⟩
      · split
        · exact ⟨_, _, s.host.setupRequest, s.fetch.urgentRun, rfl⟩
        · split
          · exact ⟨_, s.host.requests, s.host.setupRequest, _, rfl⟩
          · exact keep

/-- What the end of an event leaves of the state before it, whatever followed in the event. -/
theorem State.conclude_keeps (s : State) :
    s.conclude.pending = s.pending ∧ s.conclude.event = s.event ∧ s.conclude.poster = s.poster
      ∧ s.conclude.pins.hrst = s.pins.hrst ∧ s.conclude.pins.grd = s.pins.grd ∧ s.conclude.pins.bw = s.pins.bw
      ∧ s.conclude.zones.guard = s.zones.guard ∧ s.conclude.host.run = s.host.run
      ∧ s.conclude.host.intEnable = s.host.intEnable ∧ s.conclude.host.faultIntEnable = s.host.faultIntEnable
      ∧ s.conclude.host.setupAddr = s.host.setupAddr ∧ s.conclude.host.resetPending = s.host.resetPending
      ∧ s.conclude.orders.sequence = s.orders.sequence
      ∧ s.conclude.orders.entries.map (Option.map Entry.identity) = s.orders.entries.map (Option.map Entry.identity)
      ∧ s.conclude.fetch.config = s.fetch.config ∧ s.conclude.fetch.normalHead = s.fetch.normalHead
      ∧ s.conclude.fetch.normalTail = s.fetch.normalTail ∧ s.conclude.fetch.urgentHead = s.fetch.urgentHead
      ∧ s.conclude.fetch.urgentTail = s.fetch.urgentTail := by
  have k := s.kept_settle
  obtain ⟨en, rq, sr, ur, g⟩ := State.grantMaster_frame s.settle.joinStarted
  unfold State.conclude State.hostSide
  rw [g]
  simp only [State.kept, Kept.mk.injEq] at k
  obtain ⟨k1, k2, k3, k4, k5, k6, k7, k8, k9, k10, k11, k12, k13⟩ := k
  exact ⟨k5, k4, k3, (congrArg Pins.hrst k1 : s.settle.pins.hrst = _), (congrArg Pins.grd k1 : s.settle.pins.grd = _),
    (congrArg Pins.bw k1 : s.settle.pins.bw = _), k6, k7, k8, k9, k10, k11, k12, k13,
    (congrArg RingFetch.config k2 : s.settle.fetch.config = _), (congrArg RingFetch.normalHead k2 : s.settle.fetch.normalHead = _), (congrArg RingFetch.normalTail k2 : s.settle.fetch.normalTail = _),
    (congrArg RingFetch.urgentHead k2 : s.settle.fetch.urgentHead = _), (congrArg RingFetch.urgentTail k2 : s.settle.fetch.urgentTail = _)⟩

/-- INTREQ follows its condition at the end of an event (R174). -/
theorem State.conclude_intreq (s : State) : s.conclude.pins.intreq = s.conclude.intreqCondition := rfl

/-- A busy engine keeps its transfer over the end of an event. -/
theorem State.conclude_busy (s : State) (t : Transfer) (h : s.host.engine = some t) : s.conclude.host.engine = some t := by
  have e : s.settle.joinStarted.host.engine = some t := by rw [State.engine_joinStarted, State.engine_settle, h]
  unfold State.conclude State.hostSide
  rw [State.grantMaster_busy _ t e]
  exact e

/-! ### Commands -/

/-- What a command that is an event can answer. -/
theorem State.react_cases (s : State) (f : State → Option State) :
    (s.pins.hrst = true ∧ s.react f = .next s) ∨
      (s.pins.hrst = false ∧ f s.newEvent = none ∧ s.react f = .next s) ∨
      (s.pins.hrst = false ∧ ∃ u, f s.newEvent = some u ∧ s.react f = .next u.conclude) := by
  unfold State.react
  cases h : s.pins.hrst <;> cases k : f s.newEvent <;> simp

theorem State.react_some (s u : State) (f : State → Option State) (h : s.pins.hrst = false) (k : f s.newEvent = some u) :
    s.react f = .next u.conclude := by simp [State.react, h, k]

theorem State.react_none (s : State) (f : State → Option State) (k : f s.newEvent = none) : s.react f = .next s := by
  unfold State.react; split <;> simp [k]

theorem State.access_run (s : State) (f : State → State) (h : s.pins.hrst = false) : s.access f = .next (f s) := by
  simp [State.access, h]

theorem State.access_held (s : State) (f : State → State) (h : s.pins.hrst = true) : s.access f = .next s := by
  simp [State.access, h]

end Sys2Proof.Machine
end

