-- ==== Sys2Proof/Laws/Operations.lean ====
section
/-! SUPPORT. What each shared operation does, said once in the relations of Safety.lean, so that a proof about a command cites it
instead of unfolding it. -/

namespace Sys2Proof.Machine

/-! ### Commands and the bus -/

/-- A command whose cause stands answers the end of its effect's event. -/
theorem State.react_answers {s : State} {P : State → Prop} (h : s.pins.hrst = false) (f : State → Option State)
    (k : ∃ u, f s.newEvent = some u ∧ P u) : ∃ u : State, s.react f = .next u.conclude ∧ P u := by
  obtain ⟨u, hu, hp⟩ := k
  exact ⟨u, State.react_some _ _ _ h hu, hp⟩

/-- The words of the burst in progress, as the model and as the statements count them. -/
theorem Transfer.burst_eq_inBurst (x : Transfer) : x.burst = x.inBurst := by
  simp [Transfer.burst, Transfer.inBurst, burstWords]
  omega

theorem State.onBus_some (s : State) (x : Transfer) (kind : Job → Bool) (ready : Transfer → Bool) (he : s.host.engine = some x)
    (hk : kind x.job = true) (hr : ready x = true) : s.newEvent.onBus kind ready = some x := by
  simp [State.onBus, State.newEvent, he, hk, hr]

theorem State.burstEnd_live (s : State) (k : State → State) (h : s.host.resetPending = false) : s.burstEnd k = k s := by
  simp [State.burstEnd, h]

/-- R99: byte `i` of a span is byte (host mod 4) + i of the transfer's words. -/
theorem spanBytes_get (host n : Nat) (words : List Word) (i : Nat) (hi : i < n) :
    (spanBytes host n words)[i]? =
      words[(host % 4 + i) / 4]?.map fun w => w.extractLsb' (8 * ((host % 4 + i) % 4)) 8 := by
  simp only [spanBytes, List.getElem?_take, hi, if_true, List.getElem?_drop]
  generalize host % 4 + i = k
  clear hi
  induction words generalizing k with
  | nil => simp [bytesOfWords]
  | cons w ws ih =>
    have h4 : bytesOfWords (w :: ws) = leBytes 4 w.toNat ++ bytesOfWords ws := by simp [bytesOfWords]
    have hlen : (leBytes 4 w.toNat).length = 4 := by simp [leBytes]
    rw [h4]
    by_cases hk : k < 4
    · rw [List.getElem?_append_left (by omega), Nat.mod_eq_of_lt hk, Nat.div_eq_of_lt hk]
      simp only [List.getElem?_cons_zero, Option.map_some, leBytes, List.getElem?_map, List.getElem?_range hk, Option.some.injEq]
      apply BitVec.eq_of_toNat_eq
      simp [BitVec.extractLsb'_toNat, Nat.shiftRight_eq_div_pow, Nat.pow_mul]
    · rw [List.getElem?_append_right (by omega), hlen, ih (k - 4)]
      have e1 : (k - 4) % 4 = k % 4 := by omega
      have e2 : k / 4 = (k - 4) / 4 + 1 := by omega
      simp [e1, e2]

theorem spanBytes_length (host n : Nat) (words : List Word) : (spanBytes host n words).length ≤ n := by simp [spanBytes]

/-! ### INTREQ -/

theorem State.occupancy_zero (s : State) : s.occupancy = 0 ↔ ∀ e, s.entry? e = none := by
  unfold State.occupancy
  rw [List.length_eq_zero_iff, List.filter_eq_nil_iff]
  constructor
  · intro h e
    simpa [State.entry?] using h (s.orders.entries[e]) (by simp)
  · intro h a ha
    obtain ⟨i, hi, rfl⟩ := List.mem_iff_getElem.1 ha
    simpa [State.entry?] using h ⟨i, by simpa using hi⟩

/-- R174: the line follows its condition once it has been brought up to date. -/
theorem State.updateIntreq_follows (s : State) : s.updateIntreq.IntreqFollows := by
  have he : ∀ e, s.updateIntreq.entry? e = s.entry? e := fun _ => rfl
  simp only [State.IntreqFollows, he]
  rcases Option.eq_none_or_eq_some s.fetch.config with hc | ⟨c, hc⟩ <;>
    simp [State.updateIntreq, State.intreqCondition, State.completionCondition, State.unacknowledged, ringCount, hc,
      s.occupancy_zero]

/-! ### Orders -/

theorem State.entry_mapEntry (s : State) (e e' : EntryId) (f : Entry → Entry) :
    (s.mapEntry e f).entry? e' = if e' = e then (s.entry? e).map f else s.entry? e' := by
  by_cases h : e' = e
  · subst h; simp
  · rw [if_neg h, State.mapEntry_other _ _ _ _ h]

theorem State.entry_goDone (s : State) (e e' : EntryId) (r : Result) :
    (s.goDone e r).entry? e' =
      if e' = e then (s.entry? e).map (fun x => { x with state := .done, result := some r }) else s.entry? e' := by
  rw [← State.entry_mapEntry]; unfold State.goDone; simp only; split <;> rfl

/-- R80, R91: an order that did not start in this event ends. -/
theorem State.goDone_endsOrder (s : State) (e : EntryId) (x : Entry) (r : Result) (hx : s.entry? e = some x)
    (h1 : s.startedGather = []) (h2 : s.startedRead = []) : s.EndsOrder (s.goDone e r) e x r := by
  refine ⟨?_, ?_, fun e' h => ?_, ?_⟩
  · rw [State.entry_goDone, if_pos rfl, hx]; rfl
  · simp [State.goDone, h1, h2, State.mapEntry]
  · rw [State.entry_goDone, if_neg h]
  · simp [State.goDone, h1, h2, State.mapEntry]

theorem State.entry_storeEnded (s : State) (j : StoreJob) (g : Bool) (e : EntryId) : (s.storeEnded j g).entry? e = s.entry? e := by
  unfold State.storeEnded; split <;> rfl

theorem State.entry_endDurable (s : State) (e e' : EntryId) :
    (s.endDurable e).entry? e' =
      if e' = e then (s.entry? e).map (fun x => { x with state := .done, result := some x.durableResult }) else s.entry? e' := by
  unfold State.endDurable
  cases hx : s.entry? e with
  | none => by_cases h : e' = e <;> simp [h, hx]
  | some x =>
    cases hs : x.store <;> simp only [hs, State.entry_goDone, State.entry_storeEnded, hx] <;> rfl

/-- R103: what a page result does to its contributor. -/
def Entry.given (failed : Option PageFailure) (x : Entry) : Entry :=
  let pages := if failed.isSome then x.failedPages + 1 else x.failedPages
  let first := if x.firstFailure.isSome then x.firstFailure else failed
  if x.state = .held ∧ x.progress ≤ 1 then
    { x with
      failedPages := pages, firstFailure := first, progress := 0, state := .done,
      result := some (if pages = 0 then ⟨.ok, BitVec.ofNat 32 x.total, none⟩ else ⟨.pageFailed, BitVec.ofNat 32 pages, first⟩) }
  else { x with
    failedPages := pages, firstFailure := first, progress := if x.state = .held then x.progress - 1 else x.progress }

theorem State.entry_giveResult (s : State) (f : Option PageFailure) (e e' : EntryId) :
    (s.giveResult f e).entry? e' = if e' = e then (s.entry? e).map (Entry.given f) else s.entry? e' := by
  unfold State.giveResult
  cases hx : s.entry? e with
  | none => by_cases h : e' = e <;> simp [h, hx]
  | some x =>
    simp only []
    by_cases hc : x.state = .held ∧ x.progress ≤ 1
    · have hp : x.progress - 1 = 0 := by omega
      have : x.state = .held ∧ (x.takeResult f).progress = 0 := by
        refine ⟨hc.1, ?_⟩
        simp only [Entry.takeResult, hc.1]; simp; omega
      rw [if_pos this, State.entry_endDurable]
      by_cases h : e' = e
      · subst h
        simp only [if_true, State.entry_mapEntry, hx, Option.map_some]
        congr 1
        simp [Entry.given, hc, Entry.takeResult, Entry.durableResult, Result.plain, Entry.total, hp]
      · simp [h, State.entry_mapEntry]
    · have : ¬ (x.state = .held ∧ (x.takeResult f).progress = 0) := by
        rintro ⟨h1, h2⟩
        refine hc ⟨h1, ?_⟩
        simp only [Entry.takeResult, h1] at h2; simp at h2; omega
      rw [if_neg this, State.entry_mapEntry]
      by_cases h : e' = e
      · subst h
        simp only [if_true, hx, Option.map_some, Entry.given, if_neg hc]; rfl
      · simp [h]

/-- R19, step 1: every contributor takes the result once. -/
theorem State.entry_giveAll (l : List EntryId) (s : State) (f : Option PageFailure) (e' : EntryId) (hn : l.Nodup) :
    (l.foldl (fun t e => t.giveResult f e) s).entry? e' =
      if e' ∈ l then (s.entry? e').map (Entry.given f) else s.entry? e' := by
  induction l generalizing s with
  | nil => simp
  | cons a l ih =>
    rw [List.nodup_cons] at hn
    rw [List.foldl_cons, ih _ hn.2, State.entry_giveResult]
    by_cases h1 : e' = a
    · subst h1; simp [hn.1]
    · simp [h1]

/-- A HELD order that has one more result to wait for, or none. -/
def Entry.lastResult (x : Entry) : Bool := x.state = .held && x.progress ≤ 1

/-- R155: the Loader's part of a store that has ended. -/
theorem State.storeEnded_eq (s : State) (j : StoreJob) (failed : Nat) :
    s.storeEnded j (failed = 0) = { s with loader := s.loader.storeOver (some j) failed } := by
  obtain ⟨target, g⟩ := j
  by_cases h : failed = 0 <;> cases target <;> simp [State.storeEnded, Loader.storeOver, Loader.setKnown, h]

theorem State.goDone_done (s : State) (e : EntryId) (r : Result) : (s.goDone e r).orders.done = s.orders.done ++ s.joinNow [e] := by
  unfold State.goDone State.joinNow
  by_cases h : e ∈ s.startedGather ∨ e ∈ s.startedRead
  · simp [h, State.mapEntry]; tauto
  · simp only [h, if_false]
    rw [not_or] at h
    simp [h, State.mapEntry]

/-- R80, R91: the end of an order changes its entry and the done queue alone. -/
theorem State.goDone_frame (s : State) (e : EntryId) (r : Result) :
    s.goDone e r = { s with orders := { s.orders with entries := (s.goDone e r).orders.entries, done := (s.goDone e r).orders.done } } := by
  unfold State.goDone; simp only; split <;> rfl

theorem State.endDurable_frame (s : State) (e : EntryId) (x : Entry) (hx : s.entry? e = some x) :
    s.endDurable e = { s with
      orders := { s.orders with entries := (s.endDurable e).orders.entries, done := s.orders.done ++ s.joinNow [e] }
      loader := s.loader.storeOver x.store x.failedPages } := by
  unfold State.endDurable
  simp only [hx]
  cases hs : x.store with
  | none =>
    simp only []
    rw [State.goDone_frame, State.goDone_done]; rfl
  | some j =>
    simp only []
    rw [State.storeEnded_eq, State.goDone_frame, State.goDone_done]; rfl

/-- R19, R91, R103, R155: one page result changes its order's entry, and with a last result the done queue and the Loader. -/
theorem State.giveResult_frame (s : State) (f : Option PageFailure) (e : EntryId) (x : Entry) (hx : s.entry? e = some x) :
    s.giveResult f e = { s with
      orders := { s.orders with
        entries := (s.giveResult f e).orders.entries
        done := s.orders.done ++ if x.lastResult then s.joinNow [e] else [] }
      loader := if x.lastResult then s.loader.storeOver x.store (Entry.given f x).failedPages else s.loader } := by
  have hx' : (s.mapEntry e (·.takeResult f)).entry? e = some (x.takeResult f) := by
    rw [State.entry_mapEntry, if_pos rfl, hx]; rfl
  have hc : (x.state = .held ∧ (x.takeResult f).progress = 0) ↔ x.lastResult = true := by
    simp only [Entry.lastResult, Entry.takeResult, Bool.and_eq_true, decide_eq_true_eq]
    constructor <;> rintro ⟨h1, h2⟩ <;> refine ⟨h1, ?_⟩ <;> simp only [h1, if_true] at * <;> omega
  unfold State.giveResult
  simp only [hx]
  by_cases h : x.lastResult = true
  · rw [if_pos (hc.2 h), State.endDurable_frame _ _ _ hx']
    have hp : (Entry.given f x).failedPages = (x.takeResult f).failedPages := by
      unfold Entry.given; simp only; split <;> rfl
    simp only [h, if_true, hp]; rfl
  · rw [if_neg (fun k => h (hc.1 k))]
    simp only [h]; simp; rfl

/-- R19, R91, R155: the results given to all contributors in list order: the orders that end join the done queue in that order. -/
theorem State.giveAll_frame (l : List EntryId) (s : State) (f : Option PageFailure) (hn : l.Nodup) :
    l.foldl (fun t e => t.giveResult f e) s = { s with
      orders := { s.orders with
        entries := (l.foldl (fun t e => t.giveResult f e) s).orders.entries
        done := s.orders.done ++ s.joinNow (l.filter fun e => ((s.entry? e).map Entry.lastResult).getD false) }
      loader := (l.filter fun e => ((s.entry? e).map Entry.lastResult).getD false).foldl (fun k e =>
        match s.entry? e with
        | some x => k.storeOver x.store (Entry.given f x).failedPages
        | none => k) s.loader } := by
  induction l generalizing s with
  | nil => simp [State.joinNow]
  | cons a l ih =>
    rw [List.nodup_cons] at hn
    rw [List.foldl_cons]
    have he : ∀ e ∈ l, (s.giveResult f a).entry? e = s.entry? e := by
      intro e h
      rw [State.entry_giveResult, if_neg]; rintro rfl; exact hn.1 h
    cases hx : s.entry? a with
    | none =>
      have : s.giveResult f a = s := by unfold State.giveResult; simp [hx]
      rw [this]
      have h0 := ih s hn.2
      simp only [List.filter_cons, hx, Option.map_none, Option.getD_none, Bool.false_eq_true, if_false]
      exact h0
    | some x =>
      have hg := s.giveResult_frame f a x hx
      have h0 := ih (s.giveResult f a) hn.2
      have hf : l.filter (fun e => (((s.giveResult f a).entry? e).map Entry.lastResult).getD false)
          = l.filter (fun e => ((s.entry? e).map Entry.lastResult).getD false) :=
        List.filter_congr fun e h => by rw [he e h]
      have hl : ∀ (k0 : Loader), (l.filter fun e => ((s.entry? e).map Entry.lastResult).getD false).foldl (fun k e =>
          match (s.giveResult f a).entry? e with
          | some x => k.storeOver x.store (Entry.given f x).failedPages
          | none => k) k0 = (l.filter fun e => ((s.entry? e).map Entry.lastResult).getD false).foldl (fun k e =>
          match s.entry? e with
          | some x => k.storeOver x.store (Entry.given f x).failedPages
          | none => k) k0 := by
        intro k0
        apply List.foldl_ext
        intro k e h
        rw [he e (List.mem_of_mem_filter h)]
      rw [hf, hl] at h0
      have hj : ∀ m, (s.giveResult f a).joinNow m = s.joinNow m := by
        intro m; rw [hg]; rfl
      have hd : (s.giveResult f a).orders.done = s.orders.done ++ if x.lastResult then s.joinNow [a] else [] := by rw [hg]
      have hld : (s.giveResult f a).loader = if x.lastResult then s.loader.storeOver x.store (Entry.given f x).failedPages else s.loader := by rw [hg]
      rw [hj, hd, hld] at h0
      rw [h0, hg]
      simp only [List.filter_cons, hx, Option.map_some, Option.getD_some]
      by_cases hlast : x.lastResult = true
      · simp [hlast, State.joinNow, List.filter_cons]
        split <;> simp [hx]
      · simp [hlast]

/-! ### Frames, devices, buffers -/

/-- R24: the frame of a channel ends in a new event. -/
theorem State.frameOver (s : State) (c : ChannelId) : s.FrameOver c (s.newEvent.freeChannel c) := by
  refine ⟨rfl, fun c' => ?_⟩
  by_cases h : c' = c
  · subst h; simp [State.freeChannel, State.channel, State.newEvent, State.mapChannel]
  · rw [if_neg h]; exact State.mapChannel_other _ _ _ _ h

theorem State.frameEnd_some {α : Type} (s : State) (c : ChannelId) (kind : FrameContent → Option α)
    (act : State → DevicePos → α → State) (f : Frame) (a : α) (hf : (s.channel c).frame = some f) (hd : f.dropped = false)
    (ha : kind f.content = some a) :
    s.newEvent.frameEnd c kind act = some (act (s.newEvent.freeChannel c) f.device a) := by
  have : (s.newEvent.channel c).frame = some f := hf
  simp [State.frameEnd, this, ha, hd]

theorem State.frameEnd_dropped {α : Type} (s : State) (c : ChannelId) (kind : FrameContent → Option α)
    (act : State → DevicePos → α → State) (f : Frame) (a : α) (hf : (s.channel c).frame = some f) (hd : f.dropped = true)
    (ha : kind f.content = some a) : s.newEvent.frameEnd c kind act = some (s.newEvent.freeChannel c) := by
  have : (s.newEvent.channel c).frame = some f := hf
  simp [State.frameEnd, this, ha, hd]

@[simp] theorem State.freeChannel_device (s : State) (c : ChannelId) (d : DevicePos) : (s.freeChannel c).device d = s.device d := rfl
@[simp] theorem State.freeChannel_buffer (s : State) (c : ChannelId) (b : BufferId) : (s.freeChannel c).buffer? b = s.buffer? b := rfl
@[simp] theorem State.freeChannel_entry (s : State) (c : ChannelId) (e : EntryId) : (s.freeChannel c).entry? e = s.entry? e := rfl
@[simp] theorem State.newEvent_device (s : State) (d : DevicePos) : s.newEvent.device d = s.device d := rfl
@[simp] theorem State.newEvent_buffer (s : State) (b : BufferId) : s.newEvent.buffer? b = s.buffer? b := rfl
@[simp] theorem State.newEvent_entry (s : State) (e : EntryId) : s.newEvent.entry? e = s.entry? e := rfl
@[simp] theorem State.newEvent_channel (s : State) (c : ChannelId) : s.newEvent.channel c = s.channel c := rfl

theorem State.mapDevice_becomes (s : State) (d : DevicePos) (g : DeviceRecord → DeviceRecord) :
    s.DeviceBecomes (s.mapDevice d g) d (g (s.device d)) :=
  ⟨rfl, by simp, fun _ h => State.mapDevice_other _ _ _ _ h⟩

/-- R41: an item queued. -/
theorem State.queueItem_queues (s : State) (d : DevicePos) (w : Work) : s.QueuesWork (s.queueItem d w) d w := by
  refine ⟨rfl, fun c => ?_⟩
  by_cases h : c = channelOf d
  · subst h; simp [State.queueItem]
  · rw [if_neg h]; exact State.mapChannel_other _ _ _ _ h

theorem State.mapBuffer_becomes (s : State) (b : BufferId) (y : Buffer) (g : Buffer → Buffer) (h : s.buffer? b = some y) :
    s.BufferBecomes (s.mapBuffer b g) b (g y) :=
  ⟨rfl, by simp [h], fun _ hb => State.mapBuffer_other _ _ _ _ hb⟩

/-- R44: the failed attempts counter grows and stops at FFFFh. -/
theorem DeviceRecord.countFailed_eq (r : DeviceRecord) :
    r.countFailed = { r with failedAttempts := BitVec.ofNat 16 (min 65535 (r.failedAttempts.toNat + 1)) } := by
  simp only [DeviceRecord.countFailed]
  congr 1
  split
  · rename_i h; rw [h]; rfl
  · rename_i h
    have h2 : r.failedAttempts.toNat < 65536 := r.failedAttempts.isLt
    have h1 : r.failedAttempts.toNat ≠ 65535 := fun hh => h (BitVec.eq_of_toNat_eq hh)
    apply BitVec.eq_of_toNat_eq
    simp; omega

/-- R60: an attempt of a buffer fails. -/
theorem State.failAttempt_fails (s : State) (b : BufferId) (y : Buffer) (c : Cause) (h : s.buffer? b = some y) :
    s.AttemptFails (s.failAttempt b c) b y c := by
  refine ⟨s.mapDevice y.device DeviceRecord.countFailed, ?_⟩
  rw [← DeviceRecord.countFailed_eq]
  by_cases ha : y.attempts < 3
  · refine ⟨(s.mapDevice y.device DeviceRecord.countFailed).mapBuffer b fun z => { z with cause := some c, state := .programming },
      State.mapDevice_becomes _ _ _, ?_⟩
    rw [if_pos ha]
    refine ⟨State.mapBuffer_becomes _ b y _ h, ?_⟩
    have : s.failAttempt b c = ((s.mapDevice y.device DeviceRecord.countFailed).mapBuffer b fun z =>
        { z with cause := some c, state := .programming }).queueItem y.device (.programStart b) := by
      simp only [State.failAttempt, h, ha, if_true, State.queueStart]
      congr 1
      simp only [State.mapBuffer, State.mapDevice, State.buffer?, State.device]
      simp [Option.map_map, Function.comp_def]
    rw [this]
    exact State.queueItem_queues _ _ _
  · refine ⟨(s.mapDevice y.device DeviceRecord.countFailed).mapBuffer b fun z => { z with cause := some c },
      State.mapDevice_becomes _ _ _, ?_⟩
    rw [if_neg ha]
    refine ⟨State.mapBuffer_becomes _ b y _ h, ?_⟩
    simp only [State.failAttempt, h, ha, if_false]; rfl

/-- R62: a buffer ends in success. -/
theorem State.succeed_succeeds (s : State) (b : BufferId) (y : Buffer) (h : s.buffer? b = some y) :
    s.Succeeds (s.succeed b) b y.device :=
  ⟨s.mapDevice y.device DeviceRecord.countProgrammed, State.mapDevice_becomes _ _ _, by simp only [State.succeed, h]⟩

/-! ### Choosing -/

/-- The chosen element belongs to the list, and none is older. -/
theorem oldestBy_some {α : Type} (age : α → Nat) (l : List α) (a : α) (h : oldestBy age l = some a) :
    a ∈ l ∧ ∀ b ∈ l, age b ≤ age a := by
  induction l generalizing a with
  | nil => cases h
  | cons x l ih =>
    unfold oldestBy at h
    cases hr : oldestBy age l with
    | none =>
      rw [hr] at h
      cases h
      cases l with
      | nil => simp
      | cons z l =>
        unfold oldestBy at hr
        split at hr <;> (try split at hr) <;> cases hr
    | some b =>
      rw [hr] at h
      obtain ⟨hb, hmax⟩ := ih b hr
      simp only at h
      split at h
      · cases h
        rename_i hle
        refine ⟨by simp, fun c hc => ?_⟩
        rcases List.mem_cons.1 hc with rfl | hc
        · exact le_refl _
        · exact (hmax c hc).trans hle
      · cases h
        rename_i hlt
        refine ⟨by simp [hb], fun c hc => ?_⟩
        rcases List.mem_cons.1 hc with rfl | hc
        · omega
        · exact hmax c hc

theorem oldestBy_none {α : Type} (age : α → Nat) (l : List α) : oldestBy age l = none ↔ l = [] := by
  cases l with
  | nil => simp [oldestBy]
  | cons a l => unfold oldestBy; split <;> (try split) <;> simp

/-- The oldest first, and the same elements. -/
theorem oldestFirst_spec {α : Type} (age : α → Nat) (l : List α) :
    (oldestFirst age l).Perm l ∧ (oldestFirst age l).Pairwise fun a b => age b ≤ age a := by
  refine ⟨List.perm_insertionSort _ _, ?_⟩
  have tot : Std.Total fun a b : α => age b ≤ age a := ⟨fun a b => le_total (age b) (age a)⟩
  have tr : IsTrans α fun a b : α => age b ≤ age a := ⟨fun _ _ _ h h' => h'.trans h⟩
  exact List.pairwise_insertionSort (fun a b : α => age b ≤ age a) l

theorem State.mem_buffersWhere (s : State) (p : Buffer → Bool) (b : BufferId) :
    b ∈ s.buffersWhere p ↔ ∃ y, s.buffer? b = some y ∧ p y = true := by
  simp only [State.buffersWhere, List.mem_filter, List.mem_finRange, true_and]
  cases s.buffer? b <;> simp

theorem State.mem_entriesWhere (s : State) (p : Entry → Bool) (e : EntryId) :
    e ∈ s.entriesWhere p ↔ ∃ x, s.entry? e = some x ∧ p x = true := by
  simp only [State.entriesWhere, List.mem_filter, List.mem_finRange, true_and]
  cases s.entry? e <;> simp

theorem State.buffersWhere_nodup (s : State) (p : Buffer → Bool) : (s.buffersWhere p).Nodup := (List.nodup_finRange 16).filter _

theorem State.entriesWhere_nodup (s : State) (p : Entry → Bool) : (s.entriesWhere p).Nodup := (List.nodup_finRange 32).filter _

/-! ### Closing -/

theorem State.closeBuffer_buffer (s : State) (b b' : BufferId) :
    (s.closeBuffer b).buffer? b' = (s.buffer? b').map fun y =>
      if y.state = .gathering ∧ b' = b then { y with state := .closed, linger := none } else y := by
  unfold State.closeBuffer
  cases hb : s.buffer? b with
  | none =>
    by_cases h : b' = b
    · subst h; simp [hb]
    · cases s.buffer? b' <;> simp [h]
  | some x =>
    simp only []
    by_cases hg : x.state = .gathering
    · rw [if_pos hg]
      change (s.mapBuffer b _).buffer? b' = _
      by_cases h : b' = b
      · subst h; simp [hb, hg]
      · rw [State.mapBuffer_other _ _ _ _ h]; cases s.buffer? b' <;> simp [h]
    · rw [if_neg hg]
      by_cases h : b' = b
      · subst h; simp [hb, hg]
      · cases s.buffer? b' <;> simp [h]

theorem State.closeBuffer_channel (s : State) (b : BufferId) (c : ChannelId) :
    (s.closeBuffer b).channel c = { s.channel c with
      queue := (s.channel c).queue ++ [b].filter (fun b => match s.buffer? b with
        | some y => y.state = .gathering ∧ channelOf y.device = c
        | none => false) } := by
  unfold State.closeBuffer
  cases hb : s.buffer? b with
  | none => simp [hb]
  | some x =>
    simp only []
    by_cases hg : x.state = .gathering
    · rw [if_pos hg]
      by_cases hc : c = channelOf x.device
      · subst hc; rw [State.mapChannel_channel]; simp [hb, hg, State.channel]
      · have hc' : channelOf x.device ≠ c := fun h => hc h.symm
        rw [State.mapChannel_other _ _ _ _ hc]; simp [hb, hg, hc', State.channel]
    · rw [if_neg hg]; simp [hb, hg]

/-- Closing changes the buffers and the channels alone. -/
theorem State.closeAll_frame (s : State) (l : List BufferId) :
    s.closeAll l = { s with pool := { s.pool with buffers := (s.closeAll l).pool.buffers }, channels := (s.closeAll l).channels } := by
  induction l generalizing s with
  | nil => rfl
  | cons b l ih =>
    have h1 : s.closeBuffer b =
        { s with pool := { s.pool with buffers := (s.closeBuffer b).pool.buffers }, channels := (s.closeBuffer b).channels } := by
      unfold State.closeBuffer
      split
      · split <;> rfl
      · rfl
    have h2 : s.closeAll (b :: l) = (s.closeBuffer b).closeAll l := rfl
    rw [h2]
    generalize s.closeBuffer b = u at h1 ⊢
    have h3 := ih u
    generalize u.closeAll l = v at h3 ⊢
    rw [h3, h1]

/-- R17: buffers closed one after another, each once. -/
theorem State.closeAll_closes (s : State) (l : List BufferId) (h : l.Nodup) : s.ClosesListed (s.closeAll l) l := by
  induction l generalizing s with
  | nil => exact ⟨fun b => by cases h : s.buffer? b <;> simp [State.closeAll, h], fun c => by simp [State.closeAll]⟩
  | cons a l ih =>
    rw [List.nodup_cons] at h
    obtain ⟨hb, hq⟩ := ih (s.closeBuffer a) h.2
    have hfold : s.closeAll (a :: l) = (s.closeBuffer a).closeAll l := rfl
    refine ⟨fun b => ?_, fun c => ?_⟩
    · rw [hfold, hb, State.closeBuffer_buffer]
      cases s.buffer? b with
      | none => rfl
      | some y =>
        simp only [Option.map_some, Option.some.injEq]
        by_cases hba : b = a
        · subst hba; by_cases hy : y.state = .gathering <;> simp [hy, h.1]
        · simp [hba]
    · rw [hfold, hq, State.closeBuffer_channel]
      simp only [List.append_assoc]
      congr 2
      rw [show (a :: l) = [a] ++ l from rfl, List.filter_append]
      congr 1
      apply List.filter_congr
      intro b hbl
      have hba : b ≠ a := fun e => h.1 (e ▸ hbl)
      rw [State.closeBuffer_buffer]
      cases s.buffer? b <;> simp [hba]

end Sys2Proof.Machine
end

