-- ==== Sys2Proof/Laws/Engines.lean ====
section
/-! SUPPORT. What the engines' shared operations do,
    said once in the relations of Safety.lean: State.takeReadSpan_takes and grants of a channel (R41 to
R54, R121), the conflict rules and the spans of a read (R82, R118 to R125), merging and allocation (R4 to R12, R98 to R102), the
FLUSH reports (R108, R109), the loss of a device (R38, R105, R127). -/

namespace Sys2Proof.Machine

/-! ### Spans of buffers -/

/-- R51: what the bounds of an image with a valid byte are. -/
theorem imageBounds_spec (image : List (Option Byte)) (h : ∃ (i : Nat) (v : Byte), image[i]? = some (some v)) :
    (imageBounds image).1 < (imageBounds image).2
    ∧ (∃ v, image[(imageBounds image).1]? = some (some v)) ∧ (∃ v, image[(imageBounds image).2 - 1]? = some (some v))
    ∧ ∀ (i : Nat) (v : Byte), image[i]? = some (some v) → (imageBounds image).1 ≤ i ∧ i < (imageBounds image).2 := by
  obtain ⟨i, v, hi⟩ := h
  have hm : ∃ o ∈ image, o.isSome = true := ⟨some v, List.mem_of_getElem? hi, rfl⟩
  have hl : image.findIdx (·.isSome) < image.length := List.findIdx_lt_length_of_exists hm
  have hr : image.reverse.findIdx (·.isSome) < image.length := by
    have := List.findIdx_lt_length_of_exists (p := (·.isSome)) (xs := image.reverse) (by simpa using hm)
    simpa using this
  have g1 := List.findIdx_getElem (w := hl)
  have g2 := List.findIdx_getElem (xs := image.reverse) (p := (·.isSome)) (w := by simpa using hr)
  have lows : ∀ (i : Nat) (v : Byte), image[i]? = some (some v) → (imageBounds image).1 ≤ i ∧ i < (imageBounds image).2 := by
    intro i v hi
    obtain ⟨hlt, hiv⟩ := List.getElem?_eq_some_iff.1 hi
    constructor
    · by_contra hc
      have := List.not_of_lt_findIdx (xs := image) (p := (·.isSome)) (i := i) (by simpa [imageBounds] using hc)
      rw [hiv] at this; exact absurd this (by simp)
    · by_contra hc
      have h2 : image.length - 1 - i < image.reverse.findIdx (·.isSome) := by simp [imageBounds] at hc; omega
      have := List.not_of_lt_findIdx (xs := image.reverse) (p := (·.isSome)) (i := image.length - 1 - i) h2
      rw [List.getElem_reverse] at this
      have e : image.length - 1 - (image.length - 1 - i) = i := by omega
      simp only [e, hiv] at this
      exact absurd this (by simp)
  refine ⟨(lows i v hi).1.trans_lt (lows i v hi).2, ?_, ?_, lows⟩
  · obtain ⟨v, hv⟩ := Option.isSome_iff_exists.1 g1
    exact ⟨v, by show image[image.findIdx _]? = _; rw [List.getElem?_eq_getElem hl, hv]⟩
  · obtain ⟨v, hv⟩ := Option.isSome_iff_exists.1 g2
    rw [List.getElem_reverse] at hv
    refine ⟨v, ?_⟩
    show image[image.length - image.reverse.findIdx _ - 1]? = _
    have e : image.length - image.reverse.findIdx (fun x => x.isSome) - 1 = image.length - 1 - image.reverse.findIdx
        (fun x => x.isSome) := by omega
    rw [e, List.getElem?_eq_getElem (by omega), hv]

/-- R51: a buffer's span lies between the bounds of its image. -/
theorem Buffer.imageBounds_of_spanIs (y : Buffer) (lo n : Nat) (h : y.spanIs lo n) : imageBounds y.image = (lo, lo + n) := by
  obtain ⟨hn, ⟨v, h1⟩, ⟨w, h2⟩, h3⟩ := h
  obtain ⟨b0, ⟨v', b1⟩, ⟨w', b2⟩, b3⟩ := imageBounds_spec y.image ⟨lo, v, h1⟩
  have a1 := b3 _ _ h1; have a2 := b3 _ _ h2; have a3 := h3 _ _ b1; have a4 := h3 _ _ b2
  apply Prod.ext <;> simp only <;> omega

/-- R51: the places of the span. -/
theorem Buffer.spanPlaces_get (y : Buffer) (k : Nat) : y.spanPlaces[k]? =
    if k < (imageBounds y.image).2 - (imageBounds y.image).1 then y.image[(imageBounds y.image).1 + k]? else none := by
  simp [Buffer.spanPlaces, imageSlice, List.getElem?_take, List.getElem?_drop]

/-- R51: the places of the span hold one without a byte exactly when the buffer has a hole. -/
theorem Buffer.anyHole_iff (y : Buffer) : y.spanPlaces.any (·.isNone) = true ↔ y.hasHole := by
  rw [List.any_eq_true]
  constructor
  · rintro ⟨o, ho, hn⟩
    obtain rfl : o = none := by simpa using hn
    obtain ⟨k, hk⟩ := List.mem_iff_getElem?.1 ho
    rw [Buffer.spanPlaces_get] at hk
    split at hk
    · rename_i hlt
      have hv : ∃ (i : Nat) (v : Byte), y.image[i]? = some (some v) := by
        by_contra hc
        have : y.image.findIdx (·.isSome) = y.image.length := by
          rw [List.findIdx_eq_length]
          intro o ho
          obtain ⟨i, hi⟩ := List.mem_iff_getElem?.1 ho
          cases o with
          | none => rfl
          | some v => exact absurd ⟨i, v, hi⟩ hc
        simp [imageBounds, this] at hlt
      obtain ⟨b0, ⟨v, b1⟩, ⟨w, b2⟩, b3⟩ := imageBounds_spec y.image hv
      refine ⟨_, _, _, v, w, ?_, ?_, b1, hk, b2⟩
      · rcases Nat.eq_zero_or_pos k with rfl | hp
        · rw [Nat.add_zero, b1] at hk; cases hk
        · omega
      · have : (imageBounds y.image).1 + k ≠ (imageBounds y.image).2 - 1 := by
          intro e; rw [e, b2] at hk; cases hk
        omega
    · cases hk
  · rintro ⟨i, k, j, v, w, h1, h2, hi, hk, hj⟩
    obtain ⟨b0, _, _, b3⟩ := imageBounds_spec y.image ⟨i, v, hi⟩
    have a1 := b3 _ _ hi; have a2 := b3 _ _ hj
    refine ⟨none, List.mem_iff_getElem?.2 ⟨k - (imageBounds y.image).1, ?_⟩, rfl⟩
    rw [Buffer.spanPlaces_get, if_pos (by omega), ← hk]
    congr 1; omega

/-! ### Takes -/

theorem State.channel_mapChannel (s : State) (c c' : ChannelId) (f : ChannelEngine → ChannelEngine) :
    (s.mapChannel c f).channel c' = if c' = c then f (s.channel c') else s.channel c' := by
  by_cases h : c' = c
  · subst h; simp
  · simp [State.mapChannel, State.channel, h, Vector.getElem_set]
    intro h'; exact absurd (Fin.ext h'.symm) h

/-- R48. -/
theorem State.mayTake_iff (s : State) (b : BufferId) : s.mayTake b = true ↔ s.MayTake b := by
  unfold State.mayTake State.MayTake
  cases s.buffer? b with
  | none => simp
  | some y => simp [and_assoc]

/-- R132, R133. -/
theorem State.pageLocked_iff (s : State) (d : DevicePos) (p : Nat) : s.pageLocked d p = true ↔ s.Locked d p := by
  unfold State.pageLocked State.Locked
  rw [List.any_eq_true]
  constructor
  · rintro ⟨o, ho, h⟩
    cases o with
    | none => cases h
    | some z =>
      obtain ⟨i, hi, hz⟩ := List.mem_iff_getElem.1 ho
      refine ⟨⟨i, by simpa using hi⟩, z, by simpa using hz, ?_⟩
      cases hm : z.mode <;> simp [State.covers, ZoneMode.locks, hm] at h ⊢ <;> tauto
  · rintro ⟨i, z, hz, h1, h2, h3, h4, h5⟩
    refine ⟨some z, ?_, ?_⟩
    · rw [← hz]; simp
    · rcases h5 with h5 | ⟨h5, h6⟩ <;> simp [State.covers, ZoneMode.locks, *]

/-- R50, R51: everything the take of a buffer can do. -/
theorem State.takeBuffer_takes (s : State) (b : BufferId) (y : Buffer) (hy : s.buffer? b = some y) :
    s.Takes (s.takeBuffer b) b y := by
  unfold State.Takes State.takeBuffer
  simp only [hy]
  refine ⟨fun h => by rw [if_pos ((State.pageLocked_iff _ _ _).2 h)], fun h => ?_⟩
  rw [if_neg (fun h' => h ((State.pageLocked_iff _ _ _).1 h'))]
  unfold State.enterSlot
  let holes := y.spanPlaces.any (·.isNone)
  let dequeue : ChannelEngine → ChannelEngine := fun c => { c with queue := c.queue.filter (· ≠ b) }
  let inSlot : DeviceRecord → DeviceRecord := fun r => { r with slot := some b }
  let s1 := s.mapChannel (channelOf y.device) dequeue
  let s2 := s1.mapDevice y.device inSlot
  obtain ⟨_, b1, b2⟩ := s2.mapBuffer_becomes b y (fun z => { z with state := if holes then .filling else .programming }) hy
  obtain ⟨_, d1, d2⟩ := s1.mapDevice_becomes y.device inSlot
  refine ⟨_, holes, Buffer.anyHole_iff y, rfl, b1, b2, fun d => ?_, fun c => ?_, State.queueItem_queues _ _ _⟩
  · by_cases h : d = y.device
    · subst h; rw [if_pos rfl]; exact d1
    · rw [if_neg h]; exact d2 d h
  · exact State.channel_mapChannel s (channelOf y.device) c dequeue

/-- The first of a list that meets a condition. -/
theorem find_behind {α : Type} (p : α → Bool) (ahead behind : List α) (b : α) (h1 : ∀ a ∈ ahead, p a = false) (h2 : p b = true) :
    (ahead ++ b :: behind).find? p = some b := by
  rw [List.find?_append, List.find?_eq_none.2 (by intro a ha; simp [h1 a ha])]; simp [h2]

/-! ### Conflict rules of a read -/

/-- R81: two ranges overlap when a byte lies in both. -/
theorem Entry.overlaps_iff (x y : Entry) : x.overlaps y = true ↔ ∃ d a, x.touches d a ∧ y.touches d a := by
  have key : ∀ z : Entry, ∀ d a, z.touches d a ↔ ∃ lo hi, z.range = some (d, lo, hi) ∧ lo ≤ a ∧ a < hi := by
    intro z d a
    unfold Entry.touches Entry.range
    cases z.kind <;> simp
    intro _; exact eq_comm
  simp only [key]
  unfold Entry.overlaps
  cases hx : x.range with
  | none => simp
  | some p =>
    obtain ⟨d, lo, hi⟩ := p
    cases hy : y.range with
    | none => simp
    | some q =>
      obtain ⟨d', lo', hi'⟩ := q
      have nx : lo < hi := by
        unfold Entry.range at hx; cases hk : x.kind <;> simp [hk] at hx <;> (obtain ⟨_, rfl, rfl⟩ :=
            hx) <;> simp [OrderRecord.length]
      have ny : lo' < hi' := by
        unfold Entry.range at hy; cases hk : y.kind <;> simp [hk] at hy <;> (obtain ⟨_, rfl, rfl⟩ :=
            hy) <;> simp [OrderRecord.length]
      simp only [Bool.and_eq_true, decide_eq_true_eq, Option.some.injEq, Prod.mk.injEq]
      constructor
      · rintro ⟨⟨rfl, h1⟩, h2⟩
        exact ⟨d, max lo lo', ⟨lo, hi, ⟨rfl, rfl, rfl⟩, by omega, by omega⟩, lo', hi', ⟨rfl, rfl, rfl⟩, by omega, by omega⟩
      · rintro ⟨d1, a, ⟨l, h, ⟨h6, h7, h8⟩, h1, h2⟩, l', h', ⟨h3, h9, h10⟩, h4, h5⟩
        subst h7 h8 h9 h10
        exact ⟨⟨h6.trans h3.symm, by omega⟩, by omega⟩

/-- R75. -/
theorem State.earlier_iff (s : State) (e e' : EntryId) (x y : Entry) (hx : s.entry? e = some x) (hy : s.entry? e' = some y)
    (hs : x.sequence ≠ none) :
    s.earlier e' e = true ↔ s.Earlier y x := by
  obtain ⟨p, hp⟩ := Option.ne_none_iff_exists'.1 hs
  unfold State.earlier State.Earlier State.orderAge
  simp only [hx, hy, Option.bind_some, hp]
  cases y.sequence with
  | none => simp
  | some q => simp

/-- R82, for an accepted READ. -/
theorem State.mayStartRead_iff (s : State) (e : EntryId) (x : Entry) (hx : s.entry? e = some x) (hs : x.sequence ≠ none) :
    s.mayStartRead e = true ↔ s.ReadAllowed x := by
  unfold State.mayStartRead State.ReadAllowed
  simp only [hx, List.all_eq_true, List.mem_finRange, true_implies]
  constructor
  · intro h e' y hy hE
    have := h e'
    simp only [hy] at this
    rw [Bool.not_eq_true', Bool.and_eq_false_iff] at this
    rcases this with h1 | h1
    · rw [(State.earlier_iff s e e' x y hx hy hs).2 hE] at h1; cases h1
    · rw [Bool.or_eq_false_iff] at h1
      constructor
      · rintro ⟨hk, ht, hst⟩
        have ho := (Entry.overlaps_iff y x).2 ht
        have hw : y.writes = true := by rcases hk with h | h | h <;> simp [Entry.writes, h]
        rcases hst with h | h <;> simp [ho, hw, h] at h1
      · rintro ⟨hk, ht, hst⟩
        rcases hst with h | h | h <;> simp [hk, ht, h] at h1
  · intro h e'
    cases hy : s.entry? e' with
    | none => rfl
    | some y =>
      simp only []
      rw [Bool.not_eq_true']
      by_contra hc
      simp only [Bool.not_eq_false, Bool.and_eq_true, Bool.or_eq_true, decide_eq_true_eq] at hc
      obtain ⟨hE, hc⟩ := hc
      obtain ⟨h1, h2⟩ := h e' y hy ((State.earlier_iff s e e' x y hx hy hs).1 hE)
      rcases hc with ⟨⟨hw, ho⟩, hst⟩ | ⟨⟨hk, hp⟩, hst⟩
      · apply h1
        refine ⟨?_, (Entry.overlaps_iff y x).1 ho, hst⟩
        revert hw; unfold Entry.writes; cases y.kind <;> simp
      · exact h2 ⟨hk, hp, by tauto⟩

/-- R82, for any entry of the waiting set. -/
theorem State.readAllowed_of_mayStartRead (s : State) (e : EntryId) (x : Entry) (hx : s.entry? e = some x) (h :
    s.mayStartRead e = true) : s.ReadAllowed x := by
  by_cases hs : x.sequence = none
  · intro e' y hy hE; obtain ⟨q, p, _, hp, _⟩ := hE; rw [hs] at hp; cases hp
  · exact (State.mayStartRead_iff s e x hx hs).1 h

/-- The oldest of a list, where no other is as old. -/
theorem oldestBy_is {α : Type} [DecidableEq α] (age : α → Nat) (l : List α) (a : α) (ha : a ∈ l) (h :
    ∀ b ∈ l, b ≠ a → age b < age a) : oldestBy age l = some a := by
  cases ho : oldestBy age l with
  | none => rw [oldestBy_none] at ho; subst ho; cases ha
  | some b =>
    obtain ⟨hb, hm⟩ := oldestBy_some age l b ho
    by_cases hba : b = a
    · rw [hba]
    · have := h b hb hba; have := hm a ha; omega

/-- R116, step 2. -/
theorem State.readToStart_eq (s : State) (ha : s.reader.active = none) (hr : s.reader.ready = []) :
    s.readToStart = oldestBy s.orderAge (s.reader.waiting.filter s.mayStartRead) := by
  unfold State.readToStart; rw [ha, hr]

/-- R91: an order that ends in the event it started in waits for the event's end. -/
theorem State.goDone_started (u : State) (e : EntryId) (r : Result) (h : e ∈ u.startedRead) :
    u.goDone e r = u.mapEntry e fun x => { x with state := .done, result := some r } := by
  unfold State.goDone; simp [h]

/-! ### Spans of a read -/

/-- R123: everything parking a read does. -/
theorem State.parkRead_parks (s : State) (e : EntryId) (x : Entry) (d : DevicePos) (hx : s.entry? e = some x) : s.ParksRead
    (s.parkRead e d) e x d := by
  refine ⟨?_, ?_, ?_, ?_, ?_⟩
  · rfl
  · show ((s.withdrawWork d (.hostRead e)).mapEntry e fun x => { x with state := .parked }).entry? e = _
    rw [State.entry_mapEntry, if_pos rfl]
    show (s.entry? e).map _ = _
    rw [hx]; rfl
  · intro e' h
    show ((s.withdrawWork d (.hostRead e)).mapEntry e fun x => { x with state := .parked }).entry? e' = _
    rw [State.entry_mapEntry, if_neg h]; rfl
  · intro d'
    show (s.reader.deferred.set d (s.reader.deferred[d] ++ [e]))[d'] = _
    by_cases h : d' = d
    · subst h; simp
    · rw [if_neg h]; simp [Vector.getElem_set]; intro h'; exact absurd (Fin.ext h'.symm) h
  · intro c
    show (s.withdrawWork d (.hostRead e)).channel c = _
    unfold State.withdrawWork
    rw [State.channel_mapChannel]
    by_cases h : c = channelOf d
    · subst h; simp
    · rw [if_neg h, if_neg h]

/-- R120: everything asking a device for a span's bytes can do. -/
theorem State.askDevice_asks (s : State) (a : ActiveRead) (x : Entry) (d : DevicePos) (hx : s.entry? a.entry = some x) (ha :
    a.assembled = false) :
    s.AsksDevice ((s.setActive (some a)).askDevice a.entry d) a.entry x d a.span a.staging := by
  obtain ⟨e, sp, st, as⟩ := a
  simp only at ha hx; subst ha
  unfold State.AsksDevice State.askDevice
  show if (s.device d).state = .idle then _ else _
  by_cases h : (s.device d).state = .idle
  · rw [if_pos h, if_pos (show ((s.setActive (some ⟨e, sp, st, false⟩)).device d).state = .idle from h)]
    refine ⟨rfl, fun c => ?_⟩
    exact ((s.setActive (some ⟨e, sp, st, false⟩)).queueItem_queues d _).2 c
  · rw [if_neg h, if_neg (show ¬ ((s.setActive (some ⟨e, sp, st, false⟩)).device d).state = .idle from h)]
    exact State.parkRead_parks (s.setActive (some ⟨e, sp, st, false⟩)) e x d hx

/-- R125: everything assembling a span can do. -/
theorem State.assemble_assembles (s : State) (a : ActiveRead) (x : Entry) (st : List Staged) (hx : s.entry? a.entry = some x)
    (hk : x.kind = .read) :
    s.AssemblesSpan (s.assemble a x st) a.entry x a.span st := by
  obtain ⟨e, sp, st0, as⟩ := a
  have ht : x.total = x.record.length := by simp [Entry.total, hk]
  unfold State.AssemblesSpan State.assemble
  simp only [ht] at *
  by_cases h : x.record.length ≤ x.progress + sp.length
  · simp only [h, if_true]
    refine ⟨rfl, ?_, ?_⟩
    · show ((s.setActive _).mapEntry e _).entry? e = _
      rw [State.entry_mapEntry, if_pos rfl]; show (s.entry? e).map _ = _; rw [hx]; rfl
    · intro e' h'
      show ((s.setActive _).mapEntry e _).entry? e' = _
      rw [State.entry_mapEntry, if_neg h']; rfl
  · simp only [h, if_false]
    exact ⟨rfl, hx, fun _ _ => rfl⟩

/-- R118 to R123: everything the taking of a span can do. -/
theorem State.takeReadSpan_takes (s : State) (e : EntryId) (x : Entry) (hx : s.entry? e = some x) (hk : x.kind = .read) :
    s.TakesReadSpan (s.takeReadSpan e) e x := by
  have ht : x.total = x.record.length := by simp [Entry.total, hk]
  have hp : x.position = x.record.position := by simp [Entry.position, hk]
  have hb : x.base = x.record.address.toNat := by simp [Entry.base, hk]
  unfold State.TakesReadSpan State.takeReadSpan
  simp only [hx, ht, hp, hb, spanFrom]
  split
  · exact State.assemble_assembles s ⟨e, _, _, false⟩ x _ hx hk
  · exact State.askDevice_asks s ⟨e, _, _, false⟩ x _ hx rfl

/-! ### Grants -/

/-- R42. -/
theorem State.grantable_iff (s : State) (i : WorkItem) : s.grantable i = true ↔ s.MayGrant i := by
  unfold State.grantable State.MayGrant
  cases i.work <;> simp

/-- R41. -/
theorem itemBefore_iff (last : Select) (i j : WorkItem) : itemBefore last i j = true ↔ comesFirst last i j := by
  have hd : ∀ d : DevicePos, (((selectOf d).val : Int) - last.val - 1) % 4 = (selectDistance last d : Int) := by
    intro d
    have h1 := (selectOf d).isLt; have h2 := last.isLt
    unfold selectDistance; omega
  obtain ⟨d, w, n⟩ := i
  obtain ⟨d', w', n'⟩ := j
  unfold itemBefore comesFirst
  simp only [hd]
  cases w <;> cases w' <;> simp [Work.class]

theorem comesFirst_trans (last : Select) (i j k : WorkItem) (h1 : comesFirst last i j) (h2 : comesFirst last j k) :
    comesFirst last i k := by
  unfold comesFirst at *
  simp only at *
  omega

theorem comesFirst_total (last : Select) (i j : WorkItem) : comesFirst last i j ∨ comesFirst last j i := by
  unfold comesFirst
  simp only
  omega

theorem comesFirst_refl (last : Select) (i : WorkItem) : comesFirst last i i := by
  rcases comesFirst_total last i i with h | h <;> exact h

theorem firstItem_none (last : Select) (l : List WorkItem) : firstItem last l = none ↔ l = [] := by
  cases l with
  | nil => simp [firstItem]
  | cons i l =>
    simp only [firstItem]
    split
    · simp
    · split <;> simp

/-- R41: the item the arbiter takes comes first of all. -/
theorem firstItem_some (last : Select) (l : List WorkItem) (i : WorkItem) (h : firstItem last l = some i) :
    i ∈ l ∧ ∀ j ∈ l, comesFirst last i j := by
  induction l generalizing i with
  | nil => cases h
  | cons a l ih =>
    simp only [firstItem] at h
    split at h
    · rename_i hn
      rw [firstItem_none] at hn; subst hn
      cases h
      simp [comesFirst_refl]
    · rename_i j hj
      obtain ⟨k1, k2⟩ := ih j hj
      by_cases hb : itemBefore last a j = true
      · rw [if_pos hb] at h; cases h
        refine ⟨by simp, ?_⟩
        intro k hk
        rcases List.mem_cons.1 hk with rfl | hk
        · exact comesFirst_refl _ _
        · exact comesFirst_trans _ _ _ _ ((itemBefore_iff _ _ _).1 hb) (k2 k hk)
      · rw [if_neg hb] at h; cases h
        refine ⟨by simp [k1], ?_⟩
        intro k hk
        rcases List.mem_cons.1 hk with rfl | hk
        · rcases comesFirst_total last k i with h | h
          · exact absurd ((itemBefore_iff _ _ _).2 h) hb
          · exact h
        · exact k2 k hk

/-- R24, R41: a grant that begins a frame. -/
theorem State.beginFrame_begins (s : State) (c : ChannelId) (i : WorkItem) (content : FrameContent) :
    s.BeginsFrame ((s.grantItem c i).beginFrame c i.device content) c i content := by
  refine ⟨rfl, fun c' => ?_⟩
  unfold State.beginFrame State.grantItem State.removeItem
  simp only [State.channel_mapChannel]
  by_cases h : c' = c
  · subst h; simp; rfl
  · simp [h]

/-- R41: a granted item leaves the waiting work. -/
theorem State.grantItem_removes (s : State) (c : ChannelId) (i : WorkItem) :
    s.RemovesItem (s.grantItem c i) c i (selectOf i.device) := by
  refine ⟨rfl, fun c' => ?_⟩
  unfold State.grantItem State.removeItem
  simp only [State.channel_mapChannel]
  by_cases h : c' = c
  · subst h; simp
  · simp [h]

/-- R42: a returned item leaves the waiting work, and the last granted select stays. -/
theorem State.removeItem_removes (s : State) (c : ChannelId) (i : WorkItem) :
    s.RemovesItem (s.removeItem c i) c i (s.channel c).lastGranted := by
  refine ⟨rfl, fun c' => ?_⟩
  unfold State.removeItem
  simp only [State.channel_mapChannel]
  by_cases h : c' = c
  · subst h; simp
  · simp [h]

/-- R121: the run goes from the first byte still needed to the last. -/
theorem neededRun_some (flags : List Bool) (lo n : Nat) (h : neededRun flags = some (lo, n)) :
    0 < n ∧ flags[lo]? = some true ∧ flags[lo + n - 1]? = some true ∧ ∀ k : Nat, flags[k]? = some true → lo ≤ k ∧ k < lo + n := by
  have key := imageBounds_spec (flags.map fun b => if b then some (0 : Byte) else none)
  have hm : ∀ k : Nat, flags[k]? = some true ↔ ∃ v, (flags.map fun b => if b then some (0 : Byte) else none)[k]? = some
      (some v) := by
    intro k
    rw [List.getElem?_map]
    cases flags[k]? with
    | none => simp
    | some b => cases b <;> simp
  have e1 : (imageBounds (flags.map fun b => if b then some (0 : Byte) else none)) = (flags.findIdx id,
      flags.length - flags.reverse.findIdx id) := by
    have hf : ((fun x : Option Byte => x.isSome) ∘ fun b : Bool => if b = true then some (0 : Byte) else none) = (id : Bool →
        Bool) := by
      funext b; cases b <;> rfl
    unfold imageBounds
    simp only [← List.map_reverse, List.findIdx_map, List.length_map, hf]
  rw [e1] at key
  unfold neededRun at h
  simp only at h
  split at h
  · rename_i ha
    cases h
    rw [List.any_eq_true] at ha
    obtain ⟨b, hb, hbt⟩ := ha
    obtain rfl : b = true := hbt
    obtain ⟨k, hk⟩ := List.mem_iff_getElem?.1 hb
    obtain ⟨v, hv⟩ := (hm k).1 hk
    obtain ⟨k1, k2, k3, k4⟩ := key ⟨k, v, hv⟩
    simp only at k1 k2 k3 k4
    refine ⟨by omega, (hm _).2 k2, ?_, ?_⟩
    · rw [show flags.findIdx id +
          (flags.length - flags.reverse.findIdx id - flags.findIdx id) - 1 = flags.length - flags.reverse.findIdx id - 1 by omega]
      exact (hm _).2 k3
    · intro k hk
      obtain ⟨v, hv⟩ := (hm k).1 hk
      have := k4 k v hv; omega
  · cases h

/-- R121: without a run no byte is needed. -/
theorem neededRun_none (flags : List Bool) (h : neededRun flags = none) (k : Nat) : flags[k]? ≠ some true := by
  intro hk
  unfold neededRun at h
  simp only at h
  have : flags.any id = true := List.any_eq_true.2 ⟨true, List.mem_of_getElem? hk, rfl⟩
  rw [if_pos this] at h; cases h

/-- R41 to R43, R52, R54, R58, R121, R148: everything a grant can do. -/
theorem State.actOnItem_acts (s : State) (c : ChannelId) (i : WorkItem) (hc : channelOf i.device = c) : s.ActsOnItem
    (s.actOnItem c i) c i := by
  obtain ⟨d, w, since⟩ := i
  simp only at hc
  unfold State.ActsOnItem State.actOnItem
  cases w with
  | ask p =>
    cases p with
    | revive e =>
      show if (s.device d).state = .offline then _ else _
      by_cases h : (s.device d).state = .offline
      · rw [if_pos h]
        have : ((s.grantItem c ⟨d, .ask (.revive e), since⟩).device d).state = .offline := h
        simp only [State.grantRevive, this]
        exact State.beginFrame_begins s c ⟨d, .ask (.revive e), since⟩ _
      · rw [if_neg h]
        refine ⟨_, State.grantItem_removes s c _, ?_⟩
        intro x hx h1 h2
        have key : ∀ r, (s.grantItem c ⟨d, .ask (.revive e), since⟩).EndsOrder ((s.grantItem c ⟨d, .ask (.revive e),
            since⟩).goDone e r) e x r
            ∧ (s.grantItem c ⟨d, .ask (.revive e), since⟩).goDone e r = { s.grantItem c ⟨d, .ask (.revive e), since⟩ with
                orders := ((s.grantItem c ⟨d, .ask (.revive e), since⟩).goDone e r).orders } := by
          intro r
          refine ⟨⟨?_, ?_, fun e' h' => ?_, ?_⟩, ?_⟩
          · rw [State.entry_goDone, if_pos rfl]; show (s.entry? e).map _ = _; rw [hx]; rfl
          · rw [State.goDone_done]
            have : (s.grantItem c ⟨d, .ask (.revive e), since⟩).joinNow [e] = [e] := by
              unfold State.joinNow; simp [h1, h2, State.grantItem, State.removeItem, State.mapChannel]
            rw [this]
          · rw [State.entry_goDone, if_neg h']
          · rw [State.goDone_frame]
          · conv => lhs; rw [State.goDone_frame]
            conv => rhs; rw [State.goDone_frame]
        have hd : ((s.grantItem c ⟨d, .ask (.revive e), since⟩).device d).state = (s.device d).state := rfl
        by_cases ha : (s.device d).state = .absent
        · simp only [State.grantRevive, hd, ha, if_true]; exact key _
        · have hg : (s.grantItem c ⟨d, .ask (.revive e), since⟩).grantRevive c d e = (s.grantItem c ⟨d, .ask (.revive e),
              since⟩).goDone e (.plain .ok 0) := by
            simp only [State.grantRevive, hd]
          simp only [hg, ha, if_false]; exact key _
    | confirming => exact State.beginFrame_begins s c ⟨d, _, since⟩ _
    | poll => exact State.beginFrame_begins s c ⟨d, _, since⟩ _
    | wake => exact State.beginFrame_begins s c ⟨d, _, since⟩ _
  | hostRead e =>
    show if (s.device d).state = .cycling then _ else _
    by_cases h : (s.device d).state = .cycling
    · rw [if_pos h]
      intro x hx
      refine ⟨_, State.removeItem_removes s c _, ?_⟩
      simp only [h, if_true]
      exact State.parkRead_parks _ e x d hx
    · rw [if_neg h]
      intro a x ha hx hk hl missing hm
      simp only [h, if_false]
      have hr : (s.grantItem c ⟨d, .hostRead e, since⟩).readInHand = some (a, x) := by
        show s.readInHand = _
        simp [State.readInHand, ha, hx]
      have hg : (s.grantItem c ⟨d, .hostRead e, since⟩).grantHostRead c d =
        match neededRun (List.zipWith stillNeeded (s.spanSources d a.span) a.staging) with
        | none => (s.grantItem c ⟨d, .hostRead e, since⟩).assemble a x (List.zipWith (fun o m => overlayByte o none m)
              (s.spanSources d a.span) a.staging)
        | some (lo, n) => (s.grantItem c ⟨d, .hostRead e, since⟩).beginFrame c d (.stream (.hostRead a.entry)
              (a.span.address + lo) n) := by
        unfold State.grantHostRead; rw [hr]; rfl
      have hf : ∀ k : Nat, (List.zipWith stillNeeded (s.spanSources d a.span) a.staging)[k]? = some true ↔ missing k := by
        intro k
        rw [hm k, List.getElem?_zipWith]
        cases (s.spanSources d a.span)[k]? with
        | none => simp
        | some o =>
          cases a.staging[k]? with
          | none => simp
          | some m => cases o <;> cases m <;> simp [stillNeeded]
      constructor
      · intro lo hi h1 h2 h3
        rw [hg]
        cases hn : neededRun (List.zipWith stillNeeded (s.spanSources d a.span) a.staging) with
        | none => exact absurd ((hf lo).2 h1) (neededRun_none _ hn lo)
        | some p =>
          obtain ⟨lo', n⟩ := p
          obtain ⟨r1, r2, r3, r4⟩ := neededRun_some _ _ _ hn
          have b1 := r4 _ ((hf lo).2 h1)
          have b2 := r4 _ ((hf hi).2 h2)
          have b3 := h3 _ ((hf _).1 r2)
          have b4 := h3 _ ((hf _).1 r3)
          obtain rfl : lo' = lo := by omega
          obtain rfl : n = hi + 1 - lo' := by omega
          exact State.beginFrame_begins s c ⟨d, .hostRead e, since⟩ _
      · intro hno
        have hn : neededRun (List.zipWith stillNeeded (s.spanSources d a.span) a.staging) = none := by
          cases hn : neededRun (List.zipWith stillNeeded (s.spanSources d a.span) a.staging) with
          | none => rfl
          | some p => exact absurd ((hf _).1 (neededRun_some _ _ _ hn).2.1) (hno _)
        rw [hg, hn]
        have hlen : (s.spanSources d a.span).length = a.span.length := by simp [State.spanSources]
        refine ⟨_, _, State.grantItem_removes s c _, ?_, ?_, State.assemble_assembles _ a x _ hx hk⟩
        · simp [hlen, hl]
        · intro k o ho
          rw [List.getElem?_zipWith, ho]
          have hkl : k < a.staging.length := by
            have := (List.getElem?_eq_some_iff.1 ho).1; omega
          have hks : a.staging[k]? = some a.staging[k] := List.getElem?_eq_getElem hkl
          rw [hks]
          cases o with
          | some b => rfl
          | none =>
            have := hno k
            rw [hm k, not_and] at this
            have h4 := this ho
            simp only
            cases hms : a.staging[k] with
            | fromDevice b => rfl
            | needed => exact absurd ⟨_, hks, by rw [hms]; simp⟩ h4
            | fromBuffer b => exact absurd ⟨_, hks, by rw [hms]; simp⟩ h4
  | copyRead k =>
    cases k <;> exact State.beginFrame_begins s c ⟨d, _, since⟩ _
  | fillRead b =>
    intro y lo n hy hs
    have hb := Buffer.imageBounds_of_spanIs y lo n hs
    have : (s.grantItem c ⟨d, .fillRead b, since⟩).buffer? b = some y := hy
    simp only [State.grantBufferRead, this]
    have hp : (s.grantItem c ⟨d, .fillRead b, since⟩).pageSize y.device = s.pageSize y.device := rfl
    have := State.beginFrame_begins s c ⟨d, .fillRead b, since⟩ (.stream (.fillRead b) (y.page * s.pageSize y.device + lo) n)
    simpa [State.bufferSpan, hb, hp] using this
  | verifyRead b =>
    intro y lo n hy hs
    have hb := Buffer.imageBounds_of_spanIs y lo n hs
    have : (s.grantItem c ⟨d, .verifyRead b, since⟩).buffer? b = some y := hy
    simp only [State.grantBufferRead, this]
    have hp : (s.grantItem c ⟨d, .verifyRead b, since⟩).pageSize y.device = s.pageSize y.device := rfl
    have := State.beginFrame_begins s c ⟨d, .verifyRead b, since⟩ (.stream (.verifyRead b) (y.page * s.pageSize y.device + lo) n)
    simpa [State.bufferSpan, hb, hp] using this
  | programStart b =>
    intro y lo n hy hs
    have hb := Buffer.imageBounds_of_spanIs y lo n hs
    obtain ⟨h0, ⟨v1, h1⟩, ⟨v2, h2⟩, h3⟩ := hs
    refine ⟨s.mapBuffer b fun z => { z with attempts := z.attempts + 1 }, y.spanPlaces.map (·.getD 0xFF),
        State.mapBuffer_becomes s b y _ hy, ?_, ?_, ?_⟩
    · have := (List.getElem?_eq_some_iff.1 h2).1
      simp [Buffer.spanPlaces, imageSlice, hb]; omega
    · intro k v hk hv
      rw [List.getElem?_map, Buffer.spanPlaces_get, hb]; simp [hk, hv]
    · have : (s.grantItem c ⟨d, .programStart b, since⟩).buffer? b = some y := hy
      simp only [State.grantStart, this]
      have hp : (s.grantItem c ⟨d, .programStart b, since⟩).pageSize y.device = s.pageSize y.device := rfl
      have := State.beginFrame_begins (s.mapBuffer b fun z => { z with attempts := z.attempts + 1 }) c ⟨d, .programStart b,
          since⟩ (.programStart b (y.page * s.pageSize y.device + lo) (y.spanPlaces.map (·.getD 0xFF)))
      have he : (State.mapBuffer (s.grantItem c ⟨d, .programStart b, since⟩) b fun z => { z with attempts :=
          z.attempts + 1 }) = (s.mapBuffer b fun z => { z with attempts := z.attempts + 1 }).grantItem c ⟨d, .programStart b,
          since⟩ := rfl
      rw [he]
      simpa [State.bufferSpan, hb, hp] using this

/-! ### Merging and allocation -/

/-- R17: closing a buffer that is not GATHERING does nothing. -/
theorem State.closeAll_skip (l : List BufferId) (s : State) (b : BufferId) (h :
    ∀ y, s.buffer? b = some y → y.state ≠ .gathering) :
    s.closeAll l = s.closeAll (l.filter (· ≠ b)) := by
  induction l generalizing s with
  | nil => rfl
  | cons a l ih =>
    have h1 : ∀ k, s.closeAll (a :: k) = (s.closeBuffer a).closeAll k := fun _ => rfl
    by_cases ha : a = b
    · subst ha
      have : s.closeBuffer a = s := by
        unfold State.closeBuffer
        cases hy : s.buffer? a with
        | none => rfl
        | some y => simp [h y hy]
      rw [h1, this, ih s h]; simp
    · have hh : ∀ y, (s.closeBuffer a).buffer? b = some y → y.state ≠ .gathering := by
        intro y hy
        rw [State.closeBuffer_buffer] at hy
        cases hb : s.buffer? b with
        | none => rw [hb] at hy; cases hy
        | some z =>
          rw [hb] at hy
          have hba : b ≠ a := fun e => ha e.symm
          simp [hba] at hy; subst hy; exact h z hb
      rw [h1, ih _ hh]
      simp [ha, State.closeAll]

/-- R101, R102: the end of a gather whose durable order has a page result to wait for. -/
theorem State.endGather_eq (s : State) (t : Turn) (x : Entry) (ht : s.gather.turn = some t) (hx : s.entry? t.entry = some x) :
    let l := if x.durable = true then t.joined else if s.pool.linger = 0 then t.touched else []
    let u := s.closeAll l
    let n := ((List.finRange 16).filter fun b' => match u.buffer? b' with | some z => t.entry ∈ z.contributors | none => false).length
    n ≠ 0 ∨ x.durable = false →
    s.endGather = (if x.durable = true then (u.mapEntry t.entry fun x => { x with state := .held, progress := n })
      else u.goDone t.entry (.plain .ok x.total)).releaseTurn := by
  intro l u n hn
  have hat : s.atTurn = some (t, x) := by simp [State.atTurn, ht, hx]
  unfold State.endGather
  rw [hat]
  simp only
  by_cases hd : x.durable = true
  · have hl : l = t.joined := if_pos hd
    simp only [hd, if_true]
    have hn' : n ≠ 0 := by rcases hn with h | h; exact h; rw [hd] at h; cases h
    have hu : u = s.closeAll t.joined := by show s.closeAll l = _; rw [hl]
    have : ((s.closeAll t.joined).buffersWhere fun y => t.entry ∈ y.contributors).length = n := by
      rw [← hu]; rfl
    rw [this, if_neg hn', ← hu]
  · simp only [hd]
    have hl : l = if s.pool.linger = 0 then t.touched else [] := if_neg hd
    have hu : u = if s.pool.linger = 0 then s.closeAll t.touched else s := by
      show s.closeAll l = _; rw [hl]; split <;> rfl
    rw [hu]; rfl

/-- R9 to R11, R100 to R102: everything a merge can do. -/
theorem State.mergeSpan_merges (s : State) (t : Turn) (x : Entry) (sp : Span) (bytes : List Byte) (b : BufferId) (y : Buffer)
    (ht : s.gather.turn = some t) (hx : s.entry? t.entry = some x) (hy : s.buffer? b = some y) (hg : y.state = .gathering)
    (hn1 : t.touched.Nodup) (hn2 : t.joined.Nodup) : s.MergesSpan (s.mergeSpan t x sp bytes b) t x sp bytes b y := by
  let y' := s.mergedBuffer t.entry x (sp.address % s.pageSize x.position) bytes y
  let touched := addOnce b t.touched
  let joined := if x.durable then addOnce b t.joined else t.joined
  let full : Bool := y'.image.all (·.isSome)
  let last : Bool := decide (x.total ≤ x.progress + sp.length)
  let atEnd : List BufferId := if last = false then [] else if x.durable = true then joined
      else if s.pool.linger = 0 then touched else []
  let v := s.mapBuffer b (s.mergedBuffer t.entry x (sp.address % s.pageSize x.position) bytes)
  have hv : s.BufferBecomes v b y' := State.mapBuffer_becomes s b y _ hy
  have nt : touched.Nodup := by
    show (addOnce b t.touched).Nodup
    unfold addOnce; split
    · exact hn1
    · rename_i h; rw [List.nodup_append]; exact ⟨hn1, by simp, by intro a ha c hc; simp at hc; subst hc; rintro rfl; exact h ha⟩
  have nj : joined.Nodup := by
    show (if x.durable then addOnce b t.joined else t.joined).Nodup
    split
    · unfold addOnce; split
      · exact hn2
      · rename_i h; rw [List.nodup_append]; exact ⟨hn2, by simp, by intro a ha c hc; simp at hc; subst hc; rintro rfl; exact h ha⟩
    · exact hn2
  have na : atEnd.Nodup := by
    show (if last = false then [] else if x.durable = true then joined else if s.pool.linger = 0 then touched else []).Nodup
    split
    · simp
    · split
      · exact nj
      · split
        · exact nt
        · simp
  let L : List BufferId := if full then b :: atEnd.filter (· ≠ b) else atEnd
  have nL : L.Nodup := by
    show (if full then b :: atEnd.filter (· ≠ b) else atEnd).Nodup
    split
    · rw [List.nodup_cons]; exact ⟨by simp, na.filter _⟩
    · exact na
  let v1 : State := (v.mapEntry t.entry fun x => { x with progress := x.progress + sp.length }).mapTurn fun t =>
    { t with span := none, bytes := none, touched := addOnce b t.touched
             joined := if x.durable then addOnce b t.joined else t.joined }
  have hv1 : v1.gather.turn = some { t with span := none, bytes := none, touched := touched, joined := joined } := by
    show Option.map _ s.gather.turn = _
    rw [ht]; rfl
  have he1 : v1.entry? t.entry = some { x with progress := x.progress + sp.length } := by
    show (v.mapEntry t.entry _).entry? t.entry = _
    rw [State.entry_mapEntry, if_pos rfl]; show (s.entry? _).map _ = _; rw [hx]; rfl
  have ho1 : ∀ e, e ≠ t.entry → v1.entry? e = s.entry? e := by
    intro e h
    show (v.mapEntry t.entry _).entry? e = _
    rw [State.entry_mapEntry, if_neg h]; rfl
  have hfull : v1.pageFull b = full := by
    show (match v.buffer? b with | some y => y.image.all (·.isSome) | none => false) = _
    rw [hv.2.1]
  let w := if full then v1.closeBuffer b else v1
  have hw : w = v1.closeAll (if full then [b] else []) := by
    show (if full then v1.closeBuffer b else v1) = _
    cases full <;> rfl
  have hcl : w.closeAll atEnd = v1.closeAll L := by
    show _ = v1.closeAll (if full then b :: atEnd.filter (· ≠ b) else atEnd)
    rw [hw]
    cases hf : full with
    | false => rfl
    | true =>
      show (v1.closeBuffer b).closeAll atEnd = (v1.closeBuffer b).closeAll _
      apply State.closeAll_skip
      intro z hz
      rw [State.closeBuffer_buffer] at hz
      have : v1.buffer? b = some y' := hv.2.1
      rw [this] at hz
      have hg' : y'.state = .gathering := hg
      simp [hg'] at hz
      rw [← hz]; simp
  have hm : s.mergeSpan t x sp bytes b = if last then w.endGather else w := by
    show (if x.total ≤ x.progress + sp.length then (if v1.pageFull b then v1.closeBuffer b else v1).endGather else
        (if v1.pageFull b then v1.closeBuffer b else v1)) = _
    rw [hfull]
    show (if x.total ≤ x.progress + sp.length then w.endGather else w) = if decide
        (x.total ≤ x.progress + sp.length) = true then w.endGather else w
    simp
  have hcL := State.closeAll_closes v1 L nL
  have hfr := State.closeAll_frame v1 L
  have common : ∀ u : State, u.pool = (v1.closeAll L).pool → u.channels = (v1.closeAll L).channels → v.ClosesListed u L := by
    intro u h1 h2
    refine ⟨fun b' => ?_, fun c => ?_⟩
    · have := hcL.buffers b'
      show u.pool.buffers[b'] = _
      rw [h1]; exact this
    · have := hcL.queues c
      show u.channels[c] = _
      rw [h2]; exact this
  have hver : (y'.verify = true ↔ y.verify = true ∨ x.verifies = true ∨ y.device = 0 ∧ y.page * s.pageSize y.device < 1024) := by
    show (y.verify || x.verifies || touchesReserved y.device (y.page * s.pageSize y.device)) = true ↔ _
    simp [touchesReserved, or_assoc]
  have hfl : full = true ↔ ∀ i : Nat, y'.image[i]? ≠ some none := by
    show y'.image.all (·.isSome) = true ↔ _
    rw [List.all_eq_true]
    constructor
    · intro h i hi
      have := h none (List.mem_of_getElem? hi); simp at this
    · intro h o ho
      obtain ⟨i, hi⟩ := List.mem_iff_getElem?.1 ho
      cases o with
      | none => exact absurd hi (h i)
      | some _ => rfl
  refine ⟨v, y', full, last, touched, joined, atEnd, rfl, hver, hfl, by simp [last], rfl, ?_, rfl, hv, ?_⟩
  · show (if x.durable then addOnce b t.joined else t.joined) = _
    by_cases hd : x.durable = true <;> simp [hd, addOnce]
  cases hlast : last with
  | false =>
    have hu : s.mergeSpan t x sp bytes b = v1.closeAll L := by
      rw [hm, hlast, ← hcl]
      have : atEnd = [] := by show (if last = false then [] else _) = _; rw [hlast]; rfl
      rw [this]; rfl
    rw [hu]
    refine ⟨common _ rfl rfl, ?_, ?_, ?_, ?_⟩
    · generalize v1.closeAll L = k at *
      rw [hfr]; rfl
    · intro e h
      generalize v1.closeAll L = k at *
      rw [hfr]; exact ho1 e h
    · generalize v1.closeAll L = k at *
      rw [hfr]; exact hv1
    · rw [if_pos rfl]
      constructor
      · generalize v1.closeAll L = k at *
        rw [hfr]; exact he1
      · generalize v1.closeAll L = k at *
        rw [hfr]; rfl
  | true =>
    let n := ((List.finRange 16).filter fun b' => match
        (v1.closeAll L).buffer? b' with | some z => t.entry ∈ z.contributors | none => false).length
    have hwt : w.gather.turn = some { t with span := none, bytes := none, touched := touched, joined := joined } := by
      rw [hw, State.closeAll_frame]; exact hv1
    have hwe : w.entry? t.entry = some { x with progress := x.progress + sp.length } := by
      rw [hw, State.closeAll_frame]; exact he1
    have hwl : w.pool.linger = s.pool.linger := by
      rw [hw, State.closeAll_frame]; rfl
    have hat : atEnd = if x.durable = true then joined else if w.pool.linger = 0 then touched else [] := by
      rw [hwl]; show (if last = false then [] else _) = _; rw [hlast]; rfl
    have hn : n ≠ 0 ∨ x.durable = false := by
      by_cases hd : x.durable = true
      · left
        intro h0
        have : b ∈ (List.finRange 16).filter fun b' => match
            (v1.closeAll L).buffer? b' with | some z => t.entry ∈ z.contributors | none => false := by
          rw [List.mem_filter]
          refine ⟨List.mem_finRange _, ?_⟩
          rw [hcL.buffers b]
          have : v1.buffer? b = some y' := hv.2.1
          rw [this]
          have hc : t.entry ∈ y'.contributors := by
            show t.entry ∈ if x.durable = true ∧ t.entry ∉ y.contributors then y.contributors ++ [t.entry] else y.contributors
            by_cases h : t.entry ∈ y.contributors <;> simp [hd, h]
          simp only [Option.map_some]
          split <;> exact decide_eq_true hc
        have h1 := List.length_eq_zero_iff.1 h0
        rw [h1] at this; cases this
      · right; simpa using hd
    have hge := State.endGather_eq w _ _ hwt hwe
    simp only at hge
    have hd1 : Entry.durable { x with progress := x.progress + sp.length } = x.durable := rfl
    have ht1 : Entry.total { x with progress := x.progress + sp.length } = x.total := rfl
    rw [hd1, ht1, ← hat, hcl] at hge
    have hge := hge hn
    have hu : s.mergeSpan t x sp bytes b = (if x.durable = true then ((v1.closeAll L).mapEntry t.entry fun x =>
        { x with state := .held, progress := n })
      else (v1.closeAll L).goDone t.entry (.plain .ok x.total)).releaseTurn := by
      rw [hm, hlast]; exact hge
    have hke : (v1.closeAll L).entry? t.entry = some { x with progress := x.progress + sp.length } := by
      rw [hfr]; exact he1
    have hko : ∀ e, e ≠ t.entry → (v1.closeAll L).entry? e = s.entry? e := by
      intro e h; rw [hfr]; exact ho1 e h
    have hkd : (v1.closeAll L).orders.done = s.orders.done := by rw [hfr]; rfl
    have hks : (v1.closeAll L).joinNow [t.entry] = s.joinNow [t.entry] := by rw [hfr]; rfl
    have hkf : v1.closeAll L = { s with
        orders := { (v1.closeAll L).orders with sequence := s.orders.sequence }
        gather := { s.gather with turn := (v1.closeAll L).gather.turn }
        pool := { s.pool with buffers := (v1.closeAll L).pool.buffers }
        channels := (v1.closeAll L).channels } := by
      generalize v1.closeAll L = k at *
      rw [hfr]; rfl
    rw [hu]
    show _ ∧ _
    by_cases hd : x.durable = true
    · rw [if_pos hd]
      refine ⟨common _ rfl rfl, ?_, ?_, rfl, ?_⟩
      · generalize v1.closeAll L = k at *
        rw [hkf]; rfl
      · intro e h
        show ((v1.closeAll L).mapEntry t.entry _).entry? e = _
        rw [State.entry_mapEntry, if_neg h]; exact hko e h
      · rw [if_neg (by simp), if_pos hd]
        constructor
        · show ((v1.closeAll L).mapEntry t.entry _).entry? t.entry = _
          rw [State.entry_mapEntry, if_pos rfl, hke]; rfl
        · exact hkd
    · rw [if_neg hd]
      have hgf := State.goDone_frame (v1.closeAll L) t.entry (.plain .ok x.total)
      refine ⟨common _ ?_ ?_, ?_, ?_, rfl, ?_⟩
      · show ((v1.closeAll L).goDone t.entry _).pool = _; rw [hgf]
      · show ((v1.closeAll L).goDone t.entry _).channels = _; rw [hgf]
      · generalize (v1.closeAll L).goDone t.entry _ = g at *
        generalize v1.closeAll L = k at *
        rw [hgf, hkf]; rfl
      · intro e h
        show ((v1.closeAll L).goDone t.entry _).entry? e = _
        rw [State.entry_goDone, if_neg h]; exact hko e h
      · rw [if_neg (by simp), if_neg hd]
        constructor
        · show ((v1.closeAll L).goDone t.entry _).entry? t.entry = _
          rw [State.entry_goDone, if_pos rfl, hke]; rfl
        · show ((v1.closeAll L).goDone t.entry _).orders.done = _
          rw [State.goDone_done, hkd, hks]

/-- R7: everything an allocation does. -/
theorem State.allocate_allocates (s : State) (r : AllocRequest) (b : BufferId) :
    ∃ y, s.AllocatesBuffer ({ s with pool := { s.pool with request := none } }.allocate b r.device r.page) r b y := by
  refine ⟨_, rfl, rfl, ?_, ?_⟩
  · show (s.pool.buffers.set b _)[b] = _
    simp; rfl
  · intro b' h
    show (s.pool.buffers.set b _)[b'] = _
    have h' : b.val ≠ b'.val := fun e => h (Fin.ext e.symm)
    simp [h']; rfl

/-- R7: the FREE record with the lowest index. -/
theorem State.lowestFree_is (s : State) (b : BufferId) (h : s.buffer? b = none) (hl : ∀ b', b' < b → s.buffer? b' ≠ none) :
    s.lowestFree = some b := by
  unfold State.lowestFree
  cases hf : (List.finRange 16).find? fun b => (s.buffer? b).isNone with
  | none =>
    rw [List.find?_eq_none] at hf
    have := hf b (List.mem_finRange _); rw [h] at this; simp at this
  | some c =>
    have hc : s.buffer? c = none := by simpa using List.find?_some hf
    have hle : c ≤ b := by
      by_contra hgt
      rw [List.find?_eq_some_iff_getElem] at hf
      obtain ⟨_, i, hi, h1, h2⟩ := hf
      have hic : i = c.val := by have := congrArg Fin.val h1; simpa using this
      have hlt : b.val < c.val := Fin.lt_def.1 (not_le.1 hgt)
      have := h2 b.val (by omega)
      simp [h] at this
    rcases lt_or_eq_of_le hle with h' | h'
    · exact absurd hc (hl c h')
    · rw [h']

/-- R6: with no record FREE there is none. -/
theorem State.lowestFree_none (s : State) (h : ∀ b, s.buffer? b ≠ none) : s.lowestFree = none := by
  unfold State.lowestFree
  rw [List.find?_eq_none]
  intro b _ hb
  exact h b (by simpa using hb)

/-- R4: no buffer of the page is in this state. -/
theorem State.bufferOf_none (s : State) (st d page) (h : ∀ b y, s.buffer? b = some y → ¬
    (y.state = st ∧ y.device = d ∧ y.page = page)) :
    s.bufferOf st d page = none := by
  unfold State.bufferOf
  rw [List.head?_eq_none_iff, List.eq_nil_iff_forall_not_mem]
  intro b hb
  rw [State.mem_buffersWhere] at hb
  obtain ⟨y, hy, hp⟩ := hb
  exact h b y hy (by simpa [and_assoc] using hp)

/-- R4: a buffer of the page is in this state. -/
theorem State.bufferOf_some (s : State) (st d page) (b y) (hy : s.buffer? b = some y) (hp :
    y.state = st ∧ y.device = d ∧ y.page = page) :
    ∃ b' y', s.bufferOf st d page = some b' ∧ s.buffer? b' = some y' ∧ y'.state = st ∧ y'.device = d ∧ y'.page = page := by
  unfold State.bufferOf
  have hm : b ∈ s.buffersWhere fun x => x.state = st && x.device = d && x.page = page := by
    rw [State.mem_buffersWhere]; exact ⟨y, hy, by simp [hp]⟩
  cases hh : (s.buffersWhere fun x => x.state = st && x.device = d && x.page = page) with
  | nil => rw [hh] at hm; cases hm
  | cons a l =>
    have ha : a ∈ s.buffersWhere fun x => x.state = st && x.device = d && x.page = page := by rw [hh]; simp
    rw [State.mem_buffersWhere] at ha
    obtain ⟨z, hz, hp⟩ := ha
    exact ⟨a, z, rfl, hz, by simpa [and_assoc] using hp⟩

/-- R17: one buffer closed. -/
theorem State.closeBuffer_closes (s : State) (b : BufferId) : s.ClosesListed (s.closeBuffer b) [b]
    ∧ s.closeBuffer b = { s with pool := { s.pool with buffers := (s.closeBuffer b).pool.buffers }, channels :=
        (s.closeBuffer b).channels } :=
  ⟨s.closeAll_closes [b] (by simp), s.closeAll_frame [b]⟩

/-! ### FLUSH reports -/

/-- R107: a device lies in the scope of a FLUSH, as the statements count it. -/
def Entry.inScopeOf (x : Entry) (d : DevicePos) : Bool := x.record.device = 15 || x.record.position = d

theorem Entry.inScope_eq (x : Entry) (d) :
    x.inScope d = Entry.inScopeOf x d := by simp [Entry.inScope, Entry.inScopeOf, OrderRecord.allDevices]

/-- R108: one FLUSH reports: its entry. -/
theorem State.entry_reportFlush (s : State) (e e' : EntryId) (x : Entry) (hx : s.entry? e = some x) :
    (s.reportFlush e).entry? e' = if e' = e then some { x with state := .done, result := some (s.flushTakes x) }
        else s.entry? e' := by
  have : s.flushResult x = s.flushTakes x := by
    simp [State.flushResult, State.flushTakes, Entry.inScope_eq, Entry.inScopeOf, OrderRecord.allDevices]
  unfold State.reportFlush; simp only [hx]
  rw [State.entry_goDone]
  show (if e' = e then (s.entry? e).map _ else s.entry? e') = _
  rw [hx, this]; rfl

/-- R108: one FLUSH reports: the Pool. -/
theorem State.pool_reportFlush (s : State) (e : EntryId) (x : Entry) (hx : s.entry? e = some x) :
    (s.reportFlush e).pool = { s.pool with
        failures := s.pool.failures.filter (fun f => !Entry.inScopeOf x f.device)
        dropped := if x.record.device = 15 then 0 else s.pool.dropped } := by
  unfold State.reportFlush; simp only [hx]
  rw [State.goDone_frame]; simp [Entry.inScope_eq, OrderRecord.allDevices]

/-- R108, R109: several FLUSH orders report, one after another: the other entries, and the Pool after them. -/
theorem State.reportFlush_all (l : List EntryId) (s : State) (hn : l.Nodup) (ho : ∀ e ∈ l, s.entry? e ≠ none) :
    (∀ e, e ∉ l → (l.foldl State.reportFlush s).entry? e = s.entry? e)
    ∧ (l.foldl State.reportFlush s).pool = { s.pool with
        failures := s.pool.failures.filter fun f => l.all fun k => match s.entry? k with
                  | some z => !(z.record.device = 15 || z.record.position = f.device)
                  | none => true,
        dropped := if l.any (fun k => match s.entry? k with
                  | some z => z.record.device = 15
                  | none => false) then 0 else s.pool.dropped } := by
  induction l generalizing s with
  | nil => simp
  | cons a l ih =>
    rw [List.nodup_cons] at hn
    obtain ⟨x, hx⟩ := Option.ne_none_iff_exists'.1 (ho a (by simp))
    have he : ∀ e, e ≠ a → (s.reportFlush a).entry? e = s.entry? e := fun e h => by rw [State.entry_reportFlush s a e x hx,
        if_neg h]
    have hl : ∀ e ∈ l, (s.reportFlush a).entry? e = s.entry? e := fun e h => he e (by rintro rfl; exact hn.1 h)
    obtain ⟨i1, i2⟩ := ih (s.reportFlush a) hn.2 (fun e h => by rw [hl e h]; exact ho e (by simp [h]))
    rw [List.foldl_cons]
    constructor
    · intro e h
      simp at h
      rw [i1 e h.2, he e h.1]
    · rw [i2, State.pool_reportFlush s a x hx]
      have h1 : ∀ f : PageFailure, (l.all fun k => match (s.reportFlush a).entry? k with
                  | some z => !(z.record.device = 15 || z.record.position = f.device)
                  | none => true) = (l.all fun k => match s.entry? k with
                  | some z => !(z.record.device = 15 || z.record.position = f.device)
                  | none => true) := by
        intro f; rw [Bool.eq_iff_iff, List.all_eq_true, List.all_eq_true]
        constructor <;> intro h k hk <;> have := h k hk <;> rw [hl k hk] at * <;> exact this
      have h2 : (l.any (fun k => match (s.reportFlush a).entry? k with
                  | some z => z.record.device = 15
                  | none => false)) = (l.any (fun k => match s.entry? k with
                  | some z => z.record.device = 15
                  | none => false)) := by
        rw [Bool.eq_iff_iff, List.any_eq_true, List.any_eq_true]
        constructor <;> rintro ⟨k, hk, h⟩ <;> refine ⟨k, hk, ?_⟩ <;> rw [hl k hk] at * <;> exact h
      simp only [h1, h2]
      congr 1
      · rw [List.filter_filter]
        apply List.filter_congr
        intro f _
        simp [hx, Entry.inScopeOf, Bool.and_comm]
      · simp only [List.any_cons, hx]
        generalize (l.any _) = bb
        by_cases hd : x.record.device = 15#8 <;> cases bb <;> simp [hd]

/-- R91, R109: the FLUSH orders that report join the done queue in that order, and nothing else is changed. -/
theorem State.reportFlush_all_frame (l : List EntryId) (s : State) (hn : l.Nodup) (ho : ∀ e ∈ l, s.entry? e ≠ none) (h0 :
    s.startedGather = [] ∧ s.startedRead = []) :
    l.foldl State.reportFlush s = { s with
      orders := ⟨(l.foldl State.reportFlush s).orders.entries, s.orders.sequence, s.orders.done ++ l⟩,
      pool := (l.foldl State.reportFlush s).pool } := by
  induction l generalizing s with
  | nil => simp
  | cons a l ih =>
    rw [List.nodup_cons] at hn
    obtain ⟨x, hx⟩ := Option.ne_none_iff_exists'.1 (ho a (by simp))
    have he : ∀ e, e ≠ a → (s.reportFlush a).entry? e = s.entry? e := fun e h => by rw [State.entry_reportFlush s a e x hx,
        if_neg h]
    have hl : ∀ e ∈ l, (s.reportFlush a).entry? e = s.entry? e := fun e h => he e (by rintro rfl; exact hn.1 h)
    have hfr : s.reportFlush a = { s with
      orders := ⟨(s.reportFlush a).orders.entries, s.orders.sequence, s.orders.done ++ [a]⟩,
      pool := (s.reportFlush a).pool } := by
      unfold State.reportFlush; simp only [hx]
      rw [State.goDone_frame, State.goDone_done]; simp [State.joinNow, h0]
    rw [List.foldl_cons]
    have i := ih (s.reportFlush a) hn.2 (fun e h => by rw [hl e h]; exact ho e (by simp [h])) (by rw [hfr]; exact h0)
    rw [i]
    generalize l.foldl State.reportFlush (s.reportFlush a) = w at *
    rw [hfr]; simp

/-! ### The loss of a device -/

/-- R54, R64. -/
theorem State.attemptInProgress_iff (s : State) (d : DevicePos) : (match
    (s.device d).slot with | some b => s.attemptInProgress b | none => false) = true ↔
    ∃ b y, (s.device d).slot = some b ∧ s.buffer? b = some y
      ∧ (y.state = .verifying
        ∨ y.state = .programming ∧ ∀ i ∈ (s.channel (channelOf y.device)).waiting, i.work ≠ .programStart b) := by
  cases hs : (s.device d).slot with
  | none => simp
  | some b =>
    simp only [State.attemptInProgress]
    cases hb : s.buffer? b with
    | none => simp [hb]
    | some y => simp [hb]

/-- R38, steps 1 and 2: everything they do. -/
theorem State.markOffline_goesOffline (s : State) (d : DevicePos) : s.GoesOffline
    ((((s.countLostAttempt d).markOffline d).withdrawItems d).dropFrame d) d := by
  have hcl : s.countLostAttempt d = if (match
      (s.device d).slot with | some b => s.attemptInProgress b | none => false) then s.mapDevice d DeviceRecord.countFailed else s := by
    unfold State.countLostAttempt
    cases (s.device d).slot <;> rfl
  have hA := State.attemptInProgress_iff s d
  generalize hE : (match (s.device d).slot with | some b => s.attemptInProgress b | none => false) = A at hcl hA
  let s1 := s.countLostAttempt d
  have h1 : s1 = { s with devices := s1.devices } := by
    show s.countLostAttempt d = { s with devices := (s.countLostAttempt d).devices }
    rw [hcl]; cases A <;> rfl
  have h1d : ∀ d', s1.device d' = if d' = d then (if A then (s.device d).countFailed else s.device d) else s.device d' := by
    intro d'
    show (s.countLostAttempt d).device d' = _
    rw [hcl]
    obtain ⟨_, k1, k2⟩ := State.mapDevice_becomes s d DeviceRecord.countFailed
    by_cases h : d' = d
    · subst h; cases A <;> simp [k1]
    · cases A <;> simp [h, k2 d' h]
  let f : DeviceRecord → DeviceRecord := fun r => { r with
    state := .offline, wakeLimit := none, cycleTimer := none, pollTimer := false, noAnswer := 0, confirming := false }
  have hm : ∀ d', (((s1.markOffline d).withdrawItems d).dropFrame d).device d' = (s1.mapDevice d f).device d' := fun _ => rfl
  obtain ⟨_, k1, k2⟩ := State.mapDevice_becomes s1 d f
  refine ⟨?_, ?_, ?_, ?_, ?_⟩
  · have key : ∀ t : State, t = { s with devices := t.devices } → ∀ k, k = (((t.markOffline d).withdrawItems d).dropFrame d) →
        k = { s with devices := k.devices, channels := k.channels, pool := { s.pool with request := k.pool.request } } := by
      intro t ht k hk
      obtain ⟨D, rfl⟩ : ∃ D, t = { s with devices := D } := ⟨_, ht⟩
      subst hk; rfl
    exact key s1 h1 _ rfl
  · intro attempt ha
    have : attempt = A := by
      rw [Bool.eq_iff_iff, ha, hA]
    subst this
    show (((s1.markOffline d).withdrawItems d).dropFrame d).device d = _
    rw [hm, k1, h1d, if_pos rfl]
    cases attempt <;> simp [f, DeviceRecord.countFailed_eq]
  · intro d' h
    show (((s1.markOffline d).withdrawItems d).dropFrame d).device d' = _
    rw [hm, k2 d' h, h1d, if_neg h]
  · intro r
    show (match s1.pool.request with | some r => if r.device = d then none else some r | none => none) = some r ↔ _
    have : s1.pool = s.pool := by rw [h1]
    rw [this]
    cases s.pool.request with
    | none => simp
    | some q =>
      simp only
      split
      · rename_i h; simp; rintro rfl; exact h
      · rename_i h; simp; rintro rfl; exact h
  · intro c
    show (((s1.markOffline d).withdrawItems d).dropFrame d).channel c = _
    unfold State.dropFrame State.withdrawItems
    rw [State.channel_mapChannel, State.channel_mapChannel]
    have : (s1.markOffline d).channel c = s.channel c := by
      show s1.channel c = _; rw [h1]; rfl
    rw [this]
    by_cases h : c = channelOf d
    · simp only [h, if_true]
      congr 1
      · cases (s.channel (channelOf d)).frame with
        | none => rfl
        | some fr =>
          simp only [Option.map_some, Option.some.injEq]
          obtain ⟨fd, fc, fw, fdr⟩ := fr
          by_cases hd : fd = d
          · subst hd
            cases fc with
            | ask p => cases p <;> simp
            | stream p a n => simp
            | programStart b a n => simp
          · simp [hd]
      · apply List.filter_congr; intro i _; simp
    · simp [h]

/-- R38, step 3: the buffers of a lost device in the order they end. -/
theorem State.lostBuffers_loses (v : State) (d : DevicePos) : v.LosesBuffers d (v.lostBuffers d) := by
  obtain ⟨hp, hpw⟩ := oldestFirst_spec v.bufferAge (v.buffersWhere fun x => x.state = .gathering && x.device = d)
  refine ⟨v.gatheringWhere (fun y => y.device = d), rfl, ?_, ?_, ?_⟩
  · exact hp.nodup_iff.2 (State.buffersWhere_nodup _ _)
  · exact hpw
  · intro b
    show b ∈ oldestFirst _ _ ↔ _
    rw [hp.mem_iff, State.mem_buffersWhere]
    simp

/-- R109, R111: with no FLUSH report and no barrier action due, nothing follows the end of a buffer. -/
theorem State.nothingDue (w : State) (h1 : ∀ e y, w.entry? e = some y → ¬ (y.kind = .flush ∧ y.state = .held ∧ y.watch = []))
          (h2 : ∀ t y, w.gather.turn = some t → w.entry? t.entry = some y → ¬ (t.work = .barrier ∧
              y.watch = [])) : w.reportFlushes.actBarrier = w := by
  have hr : w.reportFlushes = w := by
    unfold State.reportFlushes
    have : w.flushesDue = [] := by
      unfold State.flushesDue
      obtain ⟨hp, _⟩ := oldestFirst_spec w.orderAge (w.entriesWhere fun x => x.kind = .flush && x.state = .held && x.watch = [])
      have he : (w.entriesWhere fun x => x.kind = .flush && x.state = .held && x.watch = []) = [] := by
        rw [List.eq_nil_iff_forall_not_mem]
        intro e he
        rw [State.mem_entriesWhere] at he
        obtain ⟨x, hx, hp⟩ := he
        exact h1 e x hx (by simpa [and_assoc] using hp)
      rw [he] at hp
      rw [he]; exact List.Perm.eq_nil hp
    rw [this]; rfl
  rw [hr]
  unfold State.actBarrier
  have : w.barrierDue = none := by
    unfold State.barrierDue State.atTurn
    cases ht : w.gather.turn with
    | none => rfl
    | some t =>
      cases hx : w.entry? t.entry with
      | none => simp [hx]
      | some x =>
        simp only [hx, Option.map_some]
        rw [if_neg]
        exact h2 t x ht hx
  rw [this]

/-- R127: the done queue and the host side after these reads have ended; the entries are those of the fold. -/
def State.withReadsLost (s : State) (l : List EntryId) : State := { s with
  orders := { s.orders with entries := (l.foldl State.readOffline s).orders.entries, done := s.orders.done ++ s.joinNow l }
  host := { s.host with
    requests := s.host.requests.filter fun r => ∀ e ∈ l, r.job ≠ .readData e
    engine := s.host.engine.map fun x => if ∃ e ∈ l, x.job = .readData e then { x with givenUp := true } else x } }

theorem State.joinNow_append (s : State) (l m : List EntryId) : s.joinNow
    (l ++ m) = s.joinNow l ++ s.joinNow m := by simp [State.joinNow]

/-- R127: several reads end DEVICE_OFFLINE, one after another. -/
theorem State.readOffline_all (l : List EntryId) (s : State) (hn : l.Nodup) (ho : ∀ e ∈ l, s.entry? e ≠ none) :
    l.foldl State.readOffline s = State.withReadsLost s l
    ∧ ∀ e, (l.foldl State.readOffline s).entry? e = if e ∈ l then (s.entry? e).map fun x =>
            { x with state := .done, result := some ⟨.deviceOffline, BitVec.ofNat 32 x.progress, none⟩ } else s.entry? e := by
  induction l generalizing s with
  | nil =>
    constructor
    · unfold State.withReadsLost
      have h1 : s.host.requests.filter (fun r => decide (∀ e ∈ ([] : List EntryId), r.job ≠ .readData e)) = s.host.requests := by
        rw [List.filter_eq_self]; intro a _; simp
      have h2 : s.host.engine.map (fun x => if ∃ e ∈ ([] : List EntryId), x.job = .readData e then { x with givenUp :=
          true } else x) = s.host.engine := by
        cases s.host.engine <;> simp
      rw [h1, h2]; simp [State.joinNow]
    · simp
  | cons a l ih =>
    rw [List.nodup_cons] at hn
    obtain ⟨x, hx⟩ := Option.ne_none_iff_exists'.1 (ho a (by simp))
    have h1 : s.readOffline a = (s.giveUp (.readData a)).goDone a (.plain .deviceOffline x.progress) := by
      unfold State.readOffline; simp only [hx]
    have he : ∀ e, (s.readOffline a).entry? e = if e = a then some { x with state := .done, result := some ⟨.deviceOffline,
        BitVec.ofNat 32 x.progress, none⟩ } else s.entry? e := by
      intro e
      rw [h1, State.entry_goDone]
      show (if e = a then (s.entry? a).map _ else s.entry? e) = _
      rw [hx]; rfl
    obtain ⟨i1, i2⟩ := ih (s.readOffline a) hn.2 (fun e h => by
      rw [he e, if_neg (by rintro rfl; exact hn.1 h)]; exact ho e (by simp [h]))
    rw [List.foldl_cons]
    constructor
    · rw [i1]
      unfold State.withReadsLost
      rw [List.foldl_cons]
      generalize hK : (l.foldl State.readOffline (s.readOffline a)).orders.entries = K
      rw [h1, State.goDone_frame, State.goDone_done]
      have hj : ∀ (E : Vector (Option Entry) 32) (D : List EntryId) m, ({ s.giveUp (.readData a) with
          orders := { (s.giveUp (.readData a)).orders with entries := E, done := D } } : State).joinNow m = s.joinNow m :=
        fun _ _ _ => rfl
      have hj2 : (s.giveUp (.readData a)).joinNow [a] = s.joinNow [a] := rfl
      rw [hj2, hj, show (a :: l) = [a] ++ l from rfl, State.joinNow_append]
      have hreq : ((s.giveUp (.readData a)).host.requests.filter fun r => decide (∀ e ∈ l,
          r.job ≠ .readData e)) = s.host.requests.filter fun r => decide (∀ e ∈ [a] ++ l, r.job ≠ .readData e) := by
        show (s.host.requests.filter _).filter _ = _
        rw [List.filter_filter]
        apply List.filter_congr
        intro r _
        simp [Bool.and_comm]
      have heng : ((s.giveUp (.readData a)).host.engine.map fun x => if ∃ e ∈ l, x.job = .readData e then { x with givenUp :=
          true } else x) = s.host.engine.map fun x => if ∃ e ∈ [a] ++ l, x.job = .readData e then { x with givenUp :=
          true } else x := by
        show (s.host.engine.map _).map _ = _
        rw [Option.map_map]
        cases s.host.engine with
        | none => rfl
        | some t =>
          simp only [Option.map_some, Function.comp, Option.some.injEq]
          by_cases h1 : t.job = .readData a <;> by_cases h2 : ∃ e ∈ l, t.job = .readData e <;> simp_all
      simp only [hreq, heng]
      simp [State.giveUp]
    · intro e
      rw [i2 e, he e]
      by_cases h1 : e = a
      · subst h1; simp [hn.1, hx]
      · simp [h1]

/-- R127: the reads of a lost device leave its deferred read list and the ready set. -/
def State.withoutParked (s : State) (d : DevicePos) (parked : List EntryId) : State :=
  { s with reader := { s.reader with
      deferred := s.reader.deferred.set d []
      ready := s.reader.ready.filter (· ∉ parked) } }

/-- R127: everything the loss of a device does to the reads. -/
theorem State.readsOffline_ends (s : State) (d : DevicePos) : s.EndsReads (s.readsOffline d) d := by
  obtain ⟨hp, hpw⟩ := oldestFirst_spec s.orderAge (s.reader.deferred[d] ++ s.reader.ready.filter fun e =>
    match s.entry? e with | some x => x.position = d | none => false)
  let active : List EntryId := match s.reader.active with
      | some a => (match s.entry? a.entry with
        | some x => if x.position = d ∧ x.state ≠ .delivering then [a.entry] else []
        | none => [])
      | none => []
  have hact : s.activeOf d = active.head? ∧ active.length ≤ 1 ∧ (∀ e ∈ active, s.entry? e ≠ none) := by
    have ha : active = (match s.reader.active with
      | some a => (match s.entry? a.entry with
        | some x => if x.position = d ∧ x.state ≠ .delivering then [a.entry] else []
        | none => [])
      | none => []) := rfl
    generalize active = l at ha ⊢
    subst ha
    unfold State.activeOf State.readInHand
    cases s.reader.active with
    | none => simp
    | some a =>
      cases hx : s.entry? a.entry with
      | none => simp [hx]
      | some x =>
        simp only [hx, Option.map_some]
        split
        · refine ⟨rfl, by simp, ?_⟩; intro e he; simp at he; subst he; rw [hx]; simp
        · simp
  refine ⟨active, s.parkedOf d, rfl, hp, hpw, ?_⟩
  intro hpres hnd
  let s0 : State := { s with reader := { s.reader with active := if active = [] then s.reader.active else none } }
  have hu : s.readsOffline d = (s.parkedOf d).foldl State.readOffline
      ((active.foldl State.readOffline s0).withoutParked d (s.parkedOf d)) := by
    obtain ⟨h1, h2, _⟩ := hact
    match h : active, h2 with
    | [], _ =>
      have e0 : s0 = s := by simp [s0, h]
      unfold State.readsOffline
      rw [show s.activeOf d = none from h1, e0]; rfl
    | [e], _ =>
      have e0 : s0 = s.setActive none := by simp [s0, h]; rfl
      unfold State.readsOffline
      rw [show s.activeOf d = some e from h1, e0]; rfl
  rw [List.nodup_append] at hnd
  obtain ⟨n1, n2, n3⟩ := hnd
  obtain ⟨a1, a2⟩ := State.readOffline_all active s0 n1 (fun e he => hact.2.2 e he)
  generalize hT : active.foldl State.readOffline s0 = T at *
  have hTe : ∀ e, T.entry? e = if e ∈ active then (s.entry? e).map fun x =>
            { x with state := .done, result := some ⟨.deviceOffline, BitVec.ofNat 32 x.progress, none⟩ } else s.entry? e := a2
  let T' : State := T.withoutParked d (s.parkedOf d)
  obtain ⟨b1, b2⟩ := State.readOffline_all (s.parkedOf d) T' n2 (fun e he => by
    show T.entry? e ≠ none
    rw [hTe]; have hp := hpres e he
    split
    · cases h : s.entry? e with
      | none => exact absurd h hp
      | some _ => simp
    · exact hp)
  have hu' : s.readsOffline d = (s.parkedOf d).foldl State.readOffline T' := hu
  have hE : ∀ e, (s.readsOffline d).entry? e = if e ∈ active ++ s.parkedOf d then (s.entry? e).map fun x =>
            { x with state := .done, result := some ⟨.deviceOffline, BitVec.ofNat 32 x.progress, none⟩ } else s.entry? e := by
    intro e
    rw [hu', b2 e, show T'.entry? e = T.entry? e from rfl, hTe e]
    by_cases h1 : e ∈ s.parkedOf d
    · have h2 : e ∉ active := fun h => n3 e h e h1 rfl
      simp [h1, h2]
    · by_cases h2 : e ∈ active <;> simp [h1, h2]
  have hfull : s.readsOffline d = { s with
            orders := { s.orders with
              entries := (s.readsOffline d).orders.entries
              done := s.orders.done ++ s.joinNow (active ++ s.parkedOf d) }
            reader := { s.reader with
              active := if active = [] then s.reader.active else none
              deferred := s.reader.deferred.set d []
              ready := s.reader.ready.filter (· ∉ s.parkedOf d) }
            host := { s.host with
              requests := s.host.requests.filter fun r => ∀ e ∈ active ++ s.parkedOf d, r.job ≠ .readData e
              engine := s.host.engine.map fun x =>
                if ∃ e ∈ active ++ s.parkedOf d, x.job = .readData e then { x with givenUp := true } else x } } := by
    have h0 : s.readsOffline d = State.withReadsLost T' (s.parkedOf d) := by rw [hu', b1]
    have hk : (s.readsOffline d).orders.entries = ((s.parkedOf d).foldl State.readOffline T').orders.entries := by rw [hu']
    rw [hk]
    rw [h0]
    unfold State.withReadsLost
    generalize ((s.parkedOf d).foldl State.readOffline T').orders.entries = K
    have hT1 : T = State.withReadsLost s0 active := a1
    have q1 : (T'.host.requests.filter fun r => decide (∀ e ∈ s.parkedOf d,
        r.job ≠ .readData e)) = s.host.requests.filter fun r => decide (∀ e ∈ active ++ s.parkedOf d, r.job ≠ .readData e) := by
      show (T.host.requests.filter _) = _
      rw [hT1]
      show (s.host.requests.filter _).filter _ = _
      rw [List.filter_filter]
      apply List.filter_congr
      intro r _
      rw [Bool.eq_iff_iff]; simp [or_imp, forall_and, and_comm]
    have q2 : (T'.host.engine.map fun x => if ∃ e ∈ s.parkedOf d, x.job = .readData e then { x with givenUp := true }
        else x) = s.host.engine.map fun x => if ∃ e ∈ active ++ s.parkedOf d, x.job = .readData e then { x with givenUp :=
        true } else x := by
      show T.host.engine.map _ = _
      rw [hT1]
      show (s.host.engine.map _).map _ = _
      rw [Option.map_map]
      cases s.host.engine with
      | none => rfl
      | some t =>
        simp only [Option.map_some, Function.comp, Option.some.injEq]
        by_cases h1 : ∃ e ∈ active, t.job = .readData e
        · have h3 : ∃ e ∈ active ++ s.parkedOf d, t.job = .readData e := by
            obtain ⟨e, he, hj⟩ := h1; exact ⟨e, by simp [he], hj⟩
          rw [if_pos h1, if_pos h3]; split <;> rfl
        · rw [if_neg h1]
          by_cases h2 : ∃ e ∈ s.parkedOf d, t.job = .readData e
          · have h3 : ∃ e ∈ active ++ s.parkedOf d, t.job = .readData e := by
              obtain ⟨e, he, hj⟩ := h2; exact ⟨e, by simp [he], hj⟩
            rw [if_pos h2, if_pos h3]
          · have h3 : ¬ ∃ e ∈ active ++ s.parkedOf d, t.job = .readData e := by
              rintro ⟨e, he, hj⟩
              rcases List.mem_append.1 he with he | he
              · exact h1 ⟨e, he, hj⟩
              · exact h2 ⟨e, he, hj⟩
            rw [if_neg h2, if_neg h3]
    rw [q1, q2]
    have q3 : T'.joinNow (s.parkedOf d) = s.joinNow (s.parkedOf d) := by
      show T.joinNow _ = _
      rw [hT1]; rfl
    have q4 : T'.orders = { s.orders with entries := T'.orders.entries, done := s.orders.done ++ s.joinNow active } := by
      have : T'.orders = T.orders := rfl
      rw [this, hT1]; rfl
    have q5 : T' = { s with orders := T'.orders, host := T'.host, reader := { s.reader with
              active := if active = [] then s.reader.active else none
              deferred := s.reader.deferred.set d []
              ready := s.reader.ready.filter (· ∉ s.parkedOf d) } } := by
      have h1 : T'.orders = T.orders := rfl
      have h2 : T'.host = T.host := rfl
      rw [h1, h2]
      have h3 : T' = T.withoutParked d (s.parkedOf d) := rfl
      rw [h3, hT1]; rfl
    have q6 : T'.host = { s.host with requests := T'.host.requests, engine := T'.host.engine } := by
      have h2 : T'.host = T.host := rfl
      rw [h2, hT1]; rfl
    rw [q3, q4, State.joinNow_append, q5, q6]
    simp
  refine ⟨hE, ?_, ?_⟩
  · rw [hfull]
  · conv => lhs; rw [hfull]
    conv => rhs; rw [hfull]

/-- R105: everything the loss of a device does to the order at its turn. -/
theorem State.gatherOffline_ends (s : State) (d : DevicePos) : s.EndsGather (s.gatherOffline d) d := by
  constructor
  · intro h
    unfold State.gatherOffline State.atTurn
    cases ht : s.gather.turn with
    | none => rfl
    | some t =>
      cases hx : s.entry? t.entry with
      | none => simp [hx]
      | some x =>
        simp only [hx, Option.map_some]
        rw [if_neg]
        rintro ⟨h1, h2⟩
        rcases h t x ht hx with h | h
        · exact h2 h
        · exact h h1
  · intro t x ht hx hw hp
    let s1 : State := (match x.store with
          | some job => s.storeEnded job false
          | none => s)
    have h1 : s1 = { s with loader := s.loader.storeOver x.store 1 } := by
      show (match x.store with
          | some job => s.storeEnded job false
          | none => s) = _
      cases hs : x.store with
      | none => rfl
      | some j => exact State.storeEnded_eq s j 1
    let s2 := (s1.giveUp (.writeData t.entry)).leaveContributors t.entry
    have hg : s.gatherOffline d = (s2.goDone t.entry (.plain .deviceOffline x.progress)).releaseTurn := by
      unfold State.gatherOffline
      have : s.atTurn = some (t, x) := by simp [State.atTurn, ht, hx]
      rw [this]; simp only []; exact if_pos ⟨hp, hw⟩
    have h2e : ∀ e, s2.entry? e = s.entry? e := by
      intro e; show s1.entry? e = _; rw [h1]; rfl
    have hgf := State.goDone_frame s2 t.entry (.plain .deviceOffline x.progress)
    have h2o : s2.orders = s.orders := by show s1.orders = _; rw [h1]
    have hj : s2.joinNow [t.entry] = s.joinNow [t.entry] := by
      have : s2.startedGather = s.startedGather ∧ s2.startedRead = s.startedRead := by
        show s1.startedGather = _ ∧ s1.startedRead = _; rw [h1]; exact ⟨rfl, rfl⟩
      unfold State.joinNow; rw [this.1, this.2]
    rw [hg]
    refine ⟨?_, ?_, ?_, ?_, ?_⟩
    · show (s2.goDone t.entry _).entry? t.entry = _
      rw [State.entry_goDone, if_pos rfl, h2e, hx]; rfl
    · intro e h
      show (s2.goDone t.entry _).entry? e = _
      rw [State.entry_goDone, if_neg h, h2e]
    · show (s2.goDone t.entry _).orders.done = _
      rw [State.goDone_done, h2o, hj]
    · intro b
      show (s2.goDone t.entry _).buffer? b = _
      rw [hgf]
      show s2.pool.buffers[b] = _
      show (s1.giveUp (.writeData t.entry)).leaveContributors t.entry |>.pool.buffers[b] = _
      have : s1.pool.buffers = s.pool.buffers := by rw [h1]
      unfold State.leaveContributors State.mapBuffers
      simp [State.giveUp, this, State.buffer?]
    · have key : ∀ S1 : State, S1 = { s with loader := s.loader.storeOver x.store 1 } → ∀ k, k = (((S1.giveUp
          (.writeData t.entry)).leaveContributors t.entry).goDone t.entry (.plain .deviceOffline x.progress)).releaseTurn →
        k = { s with
        orders := { s.orders with entries := k.orders.entries, done := k.orders.done }
        pool := { s.pool with buffers := k.pool.buffers }
        gather := { s.gather with turn := none }
        loader := s.loader.storeOver x.store 1
        host := { s.host with
          requests := s.host.requests.filter fun r => r.job ≠ .writeData t.entry
          engine := s.host.engine.map fun h => if h.job = .writeData t.entry then { h with givenUp := true } else h } } := by
        rintro S1 rfl k rfl
        rw [State.goDone_frame]; rfl
      exact key s1 h1 _ rfl

/-- R38: DEVICE_LOST outside the boot wake. -/
theorem State.bootLost_else (q : State) (d : DevicePos) (hn : ¬ (d = 0 ∧ q.loader.phase = some .wake0)) :
    (q.setFault .deviceLost).bootLost d = { q with host := { q.host with fault := q.host.fault ||| 0b010000000#9 } } := by
  unfold State.bootLost
  rw [if_neg]
  · rfl
  · exact hn

/-- R147: device 0 lost in its boot wake. -/
theorem State.bootLost_wake0 (q : State) (d : DevicePos) (hd : d = 0) (hp : q.loader.phase = some .wake0) (hk : ∀ k :
    DevicePos, k ≠ 0 → q.loader.geometry[k] = none) :
    (q.setFault .deviceLost).bootLost d = { q with
            host := { q.host with fault := q.host.fault ||| 0b010100000#9 }
            zones := { q.zones with entries := Vector.replicate 16 none }
            loader := { q.loader with
              copyA := none, copyB := none, inUse := none, generation := 0, phase := some .wakeRest, judgedA := none
              geometry := (Vector.replicate 8 none).set 0 (some ⟨.b16, 64, q.loader.bootWidth, 20⟩) } } := by
  unfold State.bootLost
  rw [if_pos ⟨hd, hp⟩]
  have hd : (defaultGeometry q.loader.bootWidth) = (Vector.replicate 8 none).set 0 (some ⟨.b16, 64, q.loader.bootWidth, 20⟩) := rfl
  have g : ∀ k : DevicePos, k ≠ 0 → ∀ t : State, t.geometryChanged k (q.loader.geometry[k]).isSome
      ((defaultGeometry q.loader.bootWidth)[k]).isSome = t := by
    intro k h t
    rw [hk k h]
    have : (defaultGeometry q.loader.bootWidth)[k] = none := by
      unfold defaultGeometry
      have h' : (0 : Nat) ≠ k.val := fun e => h (Fin.ext e.symm)
      simp [h']
    rw [this]; rfl
  generalize hz : (Vector.replicate 16 none : Vector (Option Zone) 16) = Z
  unfold State.applyDefault State.applyProfile
  have hb : (q.setFault .deviceLost).loader = q.loader := rfl
  simp only [List.foldl_cons, List.foldl_nil, hb]
  simp only [g 1 (by decide), g 2 (by decide), g 3 (by decide), g 4 (by decide), g 5 (by decide), g 6 (by decide), g 7 (by decide)]
  have hf : q.host.fault ||| 0b010000000#9 ||| 0b000100000#9 = q.host.fault ||| 0b010100000#9 := by
    rw [BitVec.or_assoc]; rfl
  rw [← hf, ← hd, ← hz]
  generalize defaultGeometry q.loader.bootWidth = G
  rfl

end Sys2Proof.Machine
end

