-- ==== Sys2Proof/Laws/Layouts.lean ====
section
/-! SUPPORT. What the record layouts hold, said once: the words of a write (R125, R157),
    the transfer a class-2 request makes (R99, R125,
R182), and the judging of a profile copy (R146). -/

namespace Sys2Proof.Machine

/-! ### Words of a write -/

/-- R157: the four places of one word. -/
theorem maskedWord_places (a b c d : Option Byte) (j : Nat) (hj : j < 4) :
    ((maskedWord a b c d).2.getLsbD j = true ↔ ∃ v, [a, b, c, d][j]? = some (some v))
    ∧ ∀ v, [a, b, c, d][j]? = some (some v) → (maskedWord a b c d).1.extractLsb' (8 * j) 8 = v := by
  have h4 : j = 0 ∨ j = 1 ∨ j = 2 ∨ j = 3 := by omega
  constructor
  · rcases h4 with rfl | rfl | rfl | rfl <;> cases a <;> cases b <;> cases c <;> cases d <;> simp [maskedWord]
  · intro v hv
    apply BitVec.eq_of_toNat_eq
    have ha := (a.getD 0).isLt; have hb := (b.getD 0).isLt; have hc := (c.getD 0).isLt; have hd := (d.getD 0).isLt
    rcases h4 with rfl | rfl | rfl | rfl <;> simp at hv <;> subst hv <;>
      simp [maskedWord, ofLeBytes, BitVec.extractLsb'_toNat, Nat.shiftRight_eq_div_pow] <;> simp at ha hb hc hd <;> omega

/-- R157: places that fit in one word. -/
theorem maskedChunks_one (l : List (Option Byte)) (a b c d : Option Byte) (hw : maskedChunks l = [maskedWord a b c d])
    (h0 : 0 < l.length) (h4 : l.length ≤ 4) (hp : ∀ k < 4, ∀ v, l[k]? = some (some v) ↔ [a, b, c, d][k]? = some (some v)) :
    (maskedChunks l).length = (l.length + 3) / 4
    ∧ ∀ k < 4 * (maskedChunks l).length, ∃ w, (maskedChunks l)[k / 4]? = some w
      ∧ (w.2.getLsbD (k % 4) = true ↔ ∃ v, l[k]? = some (some v))
      ∧ ∀ v, l[k]? = some (some v) → w.1.extractLsb' (8 * (k % 4)) 8 = v := by
  rw [hw]
  refine ⟨by simp; omega, fun k hk => ⟨maskedWord a b c d, ?_, ?_⟩⟩
  · rw [show k / 4 = 0 by simp at hk; omega]; rfl
  · have hk : k < 4 := by simpa using hk
    rw [Nat.mod_eq_of_lt hk]
    simp only [hp k hk]
    exact maskedWord_places a b c d k hk

/-- R157: places four by four into words. -/
theorem maskedChunks_places : ∀ (l : List (Option Byte)),
    (maskedChunks l).length = (l.length + 3) / 4
    ∧ ∀ k < 4 * (maskedChunks l).length, ∃ w, (maskedChunks l)[k / 4]? = some w
      ∧ (w.2.getLsbD (k % 4) = true ↔ ∃ v, l[k]? = some (some v))
      ∧ ∀ v, l[k]? = some (some v) → w.1.extractLsb' (8 * (k % 4)) 8 = v
  | [] => by simp [maskedChunks]
  | [a] => maskedChunks_one _ a none none none (by simp [maskedChunks]) (by simp) (by simp) fun k hk v => by
    obtain rfl | rfl | rfl | rfl : k = 0 ∨ k = 1 ∨ k = 2 ∨ k = 3 := by omega
    all_goals simp
  | [a, b] => maskedChunks_one _ a b none none (by simp [maskedChunks]) (by simp) (by simp) fun k hk v => by
    obtain rfl | rfl | rfl | rfl : k = 0 ∨ k = 1 ∨ k = 2 ∨ k = 3 := by omega
    all_goals simp
  | [a, b, c] => maskedChunks_one _ a b c none (by simp [maskedChunks]) (by simp) (by simp) fun k hk v => by
    obtain rfl | rfl | rfl | rfl : k = 0 ∨ k = 1 ∨ k = 2 ∨ k = 3 := by omega
    all_goals simp
  | a :: b :: c :: d :: rest => by
    obtain ⟨i1, i2⟩ := maskedChunks_places rest
    refine ⟨by simp only [maskedChunks, List.length_cons, i1]; omega, fun k hk => ?_⟩
    by_cases h : k < 4
    · refine ⟨maskedWord a b c d, by rw [show k / 4 = 0 by omega, maskedChunks]; rfl, ?_⟩
      rw [Nat.mod_eq_of_lt h]
      have : (a :: b :: c :: d :: rest)[k]? = [a, b, c, d][k]? := by
        have : k = 0 ∨ k = 1 ∨ k = 2 ∨ k = 3 := by omega
        rcases this with rfl | rfl | rfl | rfl <;> rfl
      rw [this]
      exact maskedWord_places a b c d k h
    · obtain ⟨w, hw1, hw2⟩ := i2 (k - 4) (by simp only [maskedChunks, List.length_cons] at hk; omega)
      refine ⟨w, ?_, ?_⟩
      · rw [show k / 4 = (k - 4) / 4 + 1 by omega, maskedChunks]; exact hw1
      · have e : (a :: b :: c :: d :: rest)[k]? = rest[k - 4]? := by
          obtain ⟨m, rfl⟩ : ∃ m, k = m + 4 := ⟨k - 4, by omega⟩
          simp
        rw [e, show k % 4 = (k - 4) % 4 by omega]; exact hw2

/-- R125, R157: the words of a write carry its bytes. -/
theorem wordsAt_carries (host : Nat) (bytes : List Byte) : CarriesBytes (wordsAt host bytes) host bytes := by
  obtain ⟨h1, h2⟩ := maskedChunks_places (List.replicate (host % 4) none ++ bytes.map some)
  refine ⟨by rw [wordsAt, h1]; simp, fun k hk => ?_⟩
  obtain ⟨w, w1, w2, w3⟩ := h2 k hk
  have key : ∀ v, (List.replicate (host % 4) (none : Option Byte) ++ bytes.map some)[k]? = some (some v) ↔
      host % 4 ≤ k ∧ bytes[k - host % 4]? = some v := by
    intro v
    by_cases h : k < host % 4
    · rw [List.getElem?_append_left (by simpa using h)]
      simp [h]
      try omega
    · rw [List.getElem?_append_right (by simpa using h)]
      simp
      try omega
  refine ⟨w, w1, ?_, ?_⟩
  · rw [w2]; simp only [key]
    constructor
    · rintro ⟨v, a, b⟩; exact ⟨a, by have := (List.getElem?_eq_some_iff.1 b).1; omega⟩
    · rintro ⟨a, b⟩; exact ⟨bytes[k - host % 4], a, List.getElem?_eq_getElem _⟩
  · intro a b
    have hb : bytes[k - host % 4]? = some bytes[k - host % 4] := List.getElem?_eq_getElem (by omega)
    rw [w3 _ ((key _).2 ⟨a, hb⟩)]; exact hb

/-- R99, R125, R157, R182: the transfer a class-2 request makes at its grant. -/
theorem State.requestTransfer_spec (s : State) (r : Request) :
   let x := s.requestTransfer r
   x.job = r.job ∧ x.moved = 0 ∧ x.taken = 0 ∧ x.retries = 0 ∧ x.givenUp = false 
            ∧ (∀ e t y sp, r.job = .writeData e → s.gather.turn = some t → s.entry? t.entry = some y → t.span = some sp →
                let host := y.record.buffer.toNat + (sp.address - y.record.address.toNat)
                x.address = host - host % 4 ∧ x.words = (host % 4 + sp.length + 3) / 4 ∧ x.out = [])
            ∧ (∀ e a y, r.job = .readData e → s.reader.active = some a → s.entry? a.entry = some y →
                a.staging.length = a.span.length →
                let host := y.record.buffer.toNat + (a.span.address - y.record.address.toNat)
                x.address = host - host % 4 ∧ x.words = (host % 4 + a.span.length + 3) / 4
                ∧ ∃ bytes, CarriesBytes x.out host bytes ∧ bytes.length = a.span.length
                    ∧ ∀ (k : Nat) b, a.staging[k]? = some (.fromBuffer b) ∨ a.staging[k]? = some (.fromDevice b) →
                        bytes[k]? = some b)
            ∧ (∀ e y, r.job = .reportStore e → s.entry? e = some y →
                x.address = y.record.buffer.toNat ∧ x.words = 32 ∧ CarriesBytes x.out 0 r.record) := by
  obtain ⟨job, since, rec⟩ := r
  cases job with
  | writeData e =>
    unfold State.requestTransfer
    simp only
    cases h : s.atTurn with
    | none => 
      refine ⟨rfl, rfl, rfl, rfl, rfl, ?_, by simp, by simp⟩
      intro e t y sp _ h1 h2 h3
      exfalso; revert h; simp [State.atTurn, h1, h2]
    | some p =>
      obtain ⟨t', x'⟩ := p
      refine ⟨rfl, rfl, rfl, rfl, rfl, ?_, by simp, by simp⟩
      intro e t y sp _ h1 h2 h3
      have : t' = t ∧ x' = y := by simpa [State.atTurn, h1, h2, eq_comm] using h
      obtain ⟨rfl, rfl⟩ := this
      simp [h3, Transfer.start, wordCount]
  | readData e =>
    unfold State.requestTransfer
    simp only
    cases h : s.readInHand with
    | none =>
      refine ⟨rfl, rfl, rfl, rfl, rfl, by simp, ?_, by simp⟩
      intro e a y _ h1 h2 h3
      exfalso; revert h; simp [State.readInHand, h1, h2]
    | some p =>
      obtain ⟨a', x'⟩ := p
      refine ⟨rfl, rfl, rfl, rfl, rfl, by simp, ?_, by simp⟩
      intro e a y _ h1 h2 h3
      have : a' = a ∧ x' = y := by simpa [State.readInHand, h1, h2, eq_comm] using h
      obtain ⟨rfl, rfl⟩ := this
      refine ⟨rfl, rfl, _, wordsAt_carries _ _, by simp [h3], ?_⟩
      intro k b hb
      rw [List.getElem?_map]
      rcases hb with hb | hb <;> rw [hb] <;> rfl
  | reportStore e =>
    refine ⟨rfl, rfl, rfl, rfl, rfl, by simp, by simp, ?_⟩
    intro e' y h1 h2
    cases h1
    simp [State.requestTransfer, Transfer.start, h2, wordsAt_carries]
  | setupRead => exact ⟨rfl, rfl, rfl, rfl, rfl, by simp, by simp, by simp⟩
  | orderFetch a b => exact ⟨rfl, rfl, rfl, rfl, rfl, by simp, by simp, by simp⟩
  | completionWrite a => exact ⟨rfl, rfl, rfl, rfl, rfl, by simp, by simp, by simp⟩

/-! ### A profile copy -/

theorem byteAt_take (l : List Byte) (n o : Nat) (h : o < n) : byteAt (l.take n) o = byteAt l o := by
  simp [byteAt, List.getD_eq_getElem?_getD, h]

theorem fieldAt_take (l : List Byte) (n o k : Nat) (h : o + k ≤ n) : fieldAt (l.take n) o k = fieldAt l o k := by
  unfold fieldAt
  rw [List.drop_take, List.take_take]
  congr 2; omega

theorem fieldAt_two_lt (l : List Byte) (o : Nat) : fieldAt l o 2 < 65536 := by
  unfold fieldAt
  match (l.drop o) with
  | [] => simp [ofLeBytes]
  | [a] => have := a.isLt; simp [ofLeBytes]; omega
  | a :: b :: _ => have := a.isLt; have := b.isLt; simp [ofLeBytes]; omega

theorem byte_eq_iff (b : Byte) (n : Nat) (hn : n < 256) : b = BitVec.ofNat 8 n ↔ b.toNat = n := by
  constructor
  · rintro rfl; simp; omega
  · intro h; apply BitVec.eq_of_toNat_eq; simp [h]; omega

/-- R183: the geometry entries that are not refused, and what they spell. -/
theorem parseGeometry_some (g : List Byte) :
    (∀ o, parseGeometry g = some o ↔
      (byteAt g 0 = 0 ∧ o = none) ∨ (byteAt g 0 = 1 ∧ (byteAt g 1).toNat ≤ 4 ∧ byteAt g 5 ≠ 0 ∧ (byteAt g 4 = 2 ∨ byteAt g 4 = 3)
        ∧ ∃ x, o = some x ∧ x.pageSize.bytes = 16 * 2 ^ (byteAt g 1).toNat
          ∧ x.pageCount = fieldAt g 2 2 + 1 ∧ x.width.bytes = (byteAt g 4).toNat ∧ x.cycleTimeout = (byteAt g 5).toNat)) := by
  intro o
  have hz : byteAt g 0 = 0 ↔ (byteAt g 0).toNat = 0 := byte_eq_iff _ 0 (by omega)
  have h1 : byteAt g 0 = 1 ↔ (byteAt g 0).toNat = 1 := byte_eq_iff _ 1 (by omega)
  have h2 : byteAt g 4 = 2 ↔ (byteAt g 4).toNat = 2 := byte_eq_iff _ 2 (by omega)
  have h3 : byteAt g 4 = 3 ↔ (byteAt g 4).toNat = 3 := byte_eq_iff _ 3 (by omega)
  rw [hz, h1, h2, h3]
  unfold parseGeometry
  generalize (byteAt g 0).toNat = p
  generalize (byteAt g 1).toNat = c
  generalize (byteAt g 4).toNat = w
  match p with
  | 0 => simp [eq_comm]
  | 1 =>
    have hw : ∀ x : AddressWidth, x.bytes = w ↔ AddressWidth.ofCode w = some x := by
      intro x
      cases x <;> simp [AddressWidth.bytes, AddressWidth.ofCode] <;> split <;> simp_all <;> omega
    have hc : ∀ x : PageSize, x.bytes = 16 * 2 ^ c ∧ c ≤ 4 ↔ PageSize.ofCode c = some x := by
      intro x
      rcases Nat.lt_or_ge c 5 with h | h
      · have : c = 0 ∨ c = 1 ∨ c = 2 ∨ c = 3 ∨ c = 4 := by omega
        rcases this with rfl | rfl | rfl | rfl | rfl <;> cases x <;> simp [PageSize.bytes, PageSize.ofCode]
      · have h1 : PageSize.ofCode c = none := by
          unfold PageSize.ofCode; split <;> first | omega | rfl
        rw [h1]; simp; omega
    simp only
    have hw' : (w = 2 ∨ w = 3) ↔ AddressWidth.ofCode w ≠ none := by
      constructor
      · rintro (rfl | rfl) <;> simp [AddressWidth.ofCode]
      · intro h; unfold AddressWidth.ofCode at h; split at h <;> simp_all
    constructor
    · intro h
      cases h1 : PageSize.ofCode c with
      | none => rw [h1] at h; cases h
      | some size =>
        cases h2 : AddressWidth.ofCode w with
        | none => rw [h1, h2] at h; cases h
        | some width =>
          rw [h1, h2] at h
          simp only at h
          split at h
          · cases h
          · rename_i h5
            cases h
            obtain ⟨a, b⟩ := (hc size).2 h1
            exact Or.inr ⟨trivial, b, h5, hw'.2 (by rw [h2]; simp), _, rfl, a, rfl, (hw width).2 h2, rfl⟩
    · rintro (⟨h, _⟩ | ⟨_, a, b, c', x, rfl, d, e, f, g'⟩)
      · cases h
      · rw [(hc x.pageSize).1 ⟨d, a⟩, (hw x.width).1 f]
        simp only [b, if_false]
        rw [← e, ← g']
  | p + 2 => simp

/-- R183: the zone entries that are not refused, and what they spell. -/
theorem parseZone_some (z : List Byte) (o : Option Zone) : parseZone z = some o ↔
    ((byteAt z 0).getLsbD 0 = false ∧ o = none) ∨ ((byteAt z 0).getLsbD 0 = true ∧ ∃ x, o = some x ∧ x.device.val =
        (byteAt z 1).toNat
      ∧ x.first = fieldAt z 2 2 ∧ x.last = fieldAt z 4 2 ∧ x.first ≤ x.last
      ∧ (byteAt z 6).toNat = (match x.mode with | .openZone => 0 | .lockedZone => 1 | .guardedZone => 2)) := by
  unfold parseZone
  have hm : ∀ c x, ZoneMode.ofCode c = some x ↔ c = (match x with | .openZone => 0 | .lockedZone => 1 | .guardedZone => 2) := by
    intro c x
    unfold ZoneMode.ofCode
    split <;> cases x <;> simp_all
  by_cases h0 : (byteAt z 0).getLsbD 0 = false
  · rw [if_pos h0, h0]; simp only [Option.some.injEq, true_and, Bool.false_eq_true, false_and, or_false]; exact eq_comm
  · rw [if_neg h0]
    have h0' : (byteAt z 0).getLsbD 0 = true := by simpa using h0
    rw [h0']
    simp only [Bool.true_eq_false, false_and, true_and, false_or]
    constructor
    · intro h
      split at h
      · cases h
      · rename_i mode hmode
        split at h
        · split at h
          · cases h
            exact ⟨_, rfl, rfl, rfl, rfl, by assumption, (hm _ _).1 hmode⟩
          · cases h
        · cases h
    · rintro ⟨x, rfl, h1, h2, h3, h4, h5⟩
      rw [(hm _ _).2 h5]
      simp only
      have hlt := x.device.isLt
      rw [dif_pos (by omega), if_pos (by omega)]
      congr 2
      obtain ⟨a, b, c, d⟩ := x
      simp only at h1 h2 h3
      subst h2 h3
      congr 1
      exact Fin.ext h1.symm

theorem zoneModeCode_iff (z : List Byte) : (∃ m : ZoneMode, (byteAt z 6).toNat =
    (match m with | .openZone => 0 | .lockedZone => 1 | .guardedZone => 2)) ↔ (byteAt z 6).toNat ≤ 2 := by
  constructor
  · rintro ⟨m, h⟩; cases m <;> first | (change _ = 0 at h; omega) | (change _ = 1 at h; omega) | (change _ = 2 at h; omega)
  · intro h
    have : (byteAt z 6).toNat = 0 ∨ (byteAt z 6).toNat = 1 ∨ (byteAt z 6).toNat = 2 := by omega
    rcases this with h | h | h
    · exact ⟨.openZone, h⟩
    · exact ⟨.lockedZone, h⟩
    · exact ⟨.guardedZone, h⟩

theorem vector_all_iff {α : Type} {n : Nat} (v : Vector α n) (p : α → Bool) : v.toList.all p = true ↔ ∀ i :
    Fin n, p v[i] = true := by
  rw [List.all_eq_true]
  constructor
  · intro h i; exact h _ (by simp)
  · intro h a ha
    obtain ⟨i, hi, rfl⟩ := List.mem_iff_getElem.1 ha
    simpa using h ⟨i, by simpa using hi⟩

theorem profileHead_iff (bytes : List Byte) (hl : bytes.length = 256) : bytes.take 5 = profileHead ↔
    byteAt bytes 0 = 0x5A ∧ byteAt bytes 1 = 0x56 ∧ byteAt bytes 2 = 0x50 ∧ byteAt bytes 3 = 0x46 ∧ byteAt bytes 4 = 1 := by
  match bytes, hl with
  | a :: b :: c :: d :: e :: rest, _ => simp [byteAt, profileHead]

theorem crcBytes_iff (x : BitVec 16) (hi lo : Byte) : x = BitVec.ofNat 16 (hi.toNat * 256 + lo.toNat) ↔ x = hi ++ lo := by
  have : BitVec.ofNat 16 (hi.toNat * 256 + lo.toNat) = (hi ++ lo : BitVec 16) := by
    apply BitVec.eq_of_toNat_eq
    rw [BitVec.toNat_append, BitVec.toNat_ofNat]
    have h1 := hi.isLt; have h2 := lo.isLt
    have := Nat.shiftLeft_add_eq_or_of_lt (b := lo.toNat) (i := 8) h2 hi.toNat
    rw [← this, Nat.shiftLeft_eq]
    omega
  rw [this]

/-- R146: a copy is judged valid exactly when every condition holds, and gives what it spells. -/
theorem judgeCopy_spec (boot : AddressWidth) (bytes : List Byte) (hl : bytes.length = 256) :
    (judgeCopy boot bytes = none ↔ ¬ CopyValid boot bytes) ∧ ∀ p, judgeCopy boot bytes = some p → CopyGives bytes p := by
  have hG : ∀ (d : Nat) o, parseGeometry (copyGeometryBytes bytes d) = some o ↔
      (byteAt (bytes.drop (12 + 8 * d)) 0 = 0 ∧ o = none) ∨ (byteAt (bytes.drop (12 + 8 * d)) 0 = 1 ∧ (byteAt (bytes.drop
          (12 + 8 * d)) 1).toNat ≤ 4 ∧ byteAt (bytes.drop (12 + 8 * d)) 5 ≠ 0 ∧ (byteAt (bytes.drop (12 + 8 * d)) 4 = 2 ∨
          byteAt (bytes.drop (12 + 8 * d)) 4 = 3)
        ∧ ∃ x, o = some x ∧ x.pageSize.bytes = 16 * 2 ^ (byteAt (bytes.drop (12 + 8 * d)) 1).toNat
          ∧ x.pageCount = fieldAt (bytes.drop (12 + 8 * d)) 2 2 + 1 ∧ x.width.bytes = (byteAt (bytes.drop
              (12 + 8 * d)) 4).toNat ∧ x.cycleTimeout = (byteAt (bytes.drop (12 + 8 * d)) 5).toNat) := by
    intro d o
    rw [parseGeometry_some _]
    unfold copyGeometryBytes
    simp only [byteAt_take _ 8 0 (by omega), byteAt_take _ 8 1 (by omega), byteAt_take _ 8 4 (by omega), byteAt_take _ 8 5
        (by omega), fieldAt_take _ 8 2 2 (by omega)]
  have hZ : ∀ (i : Nat) o, parseZone (copyZoneBytes bytes i) = some o ↔
    ((byteAt (bytes.drop (76 + 8 * i)) 0).getLsbD 0 = false ∧ o = none) ∨ ((byteAt (bytes.drop
        (76 + 8 * i)) 0).getLsbD 0 = true ∧ ∃ x, o = some x ∧ x.device.val = (byteAt (bytes.drop (76 + 8 * i)) 1).toNat
      ∧ x.first = fieldAt (bytes.drop (76 + 8 * i)) 2 2 ∧ x.last = fieldAt (bytes.drop (76 + 8 * i)) 4 2 ∧ x.first ≤ x.last
      ∧ (byteAt (bytes.drop (76 + 8 * i)) 6).toNat =
          (match x.mode with | .openZone => 0 | .lockedZone => 1 | .guardedZone => 2)) := by
    intro i o
    rw [parseZone_some]
    unfold copyZoneBytes
    simp only [byteAt_take _ 8 0 (by omega), byteAt_take _ 8 1 (by omega), byteAt_take _ 8 6 (by omega),
        fieldAt_take _ 8 2 2 (by omega), fieldAt_take _ 8 4 2 (by omega)]
  -- the parsed vectors
  let gs : Vector (Option (Option Geometry)) 8 := Vector.ofFn fun d => parseGeometry (copyGeometryBytes bytes d)
  let zs : Vector (Option (Option Zone)) 16 := Vector.ofFn fun i => parseZone (copyZoneBytes bytes i)
  let geometry : Vector (Option Geometry) 8 := gs.map (·.getD none)
  let zones : Vector (Option Zone) 16 := zs.map (·.getD none)
  have hgs : ∀ d : DevicePos, gs[d] = parseGeometry (copyGeometryBytes bytes d) := by intro d; simp [gs]
  have hzs : ∀ i : ZoneIndex, zs[i] = parseZone (copyZoneBytes bytes i) := by intro d; simp [zs]
  have hge : ∀ d : DevicePos, geometry[d] = (parseGeometry (copyGeometryBytes bytes d)).getD none := by intro d; simp [geometry, gs]
  have hzo : ∀ i : ZoneIndex, zones[i] = (parseZone (copyZoneBytes bytes i)).getD none := by intro d; simp [zones, zs]
  let cond : Prop := bytes.length = 256 ∧ bytes.take 5 = profileHead
      ∧ crc16 (bytes.take 254) = BitVec.ofNat 16 ((byteAt bytes 254).toNat * 256 + (byteAt bytes 255).toNat)
      ∧ fieldAt bytes 8 4 ≠ 0
      ∧ gs.toList.all (·.isSome) = true ∧ zs.toList.all (·.isSome) = true
      ∧ geometryLegal geometry = true
      ∧ (geometry[(0 : DevicePos)]).map (·.width) = some boot
      ∧ zones.toList.all (zoneFits geometry) = true
  have hj : judgeCopy boot bytes = if cond then some ⟨BitVec.ofNat 32 (fieldAt bytes 8 4), geometry, zones⟩ else none := rfl
  have hgen : fieldAt bytes 8 4 < 2 ^ 32 := by
    unfold fieldAt
    match (bytes.drop 8) with
    | [] => simp [ofLeBytes]
    | [a] => have := a.isLt; simp [ofLeBytes]; omega
    | [a, b] => have := a.isLt; have := b.isLt; simp [ofLeBytes]; omega
    | [a, b, c] => have := a.isLt; have := b.isLt; have := c.isLt; simp [ofLeBytes]; omega
    | a :: b :: c :: d :: _ => have := a.isLt; have := b.isLt; have := c.isLt; have := d.isLt; simp [ofLeBytes]; omega
  -- what the parses say
  have gsome : gs.toList.all (·.isSome) = true → ∀ d : DevicePos, parseGeometry (copyGeometryBytes bytes d) = some geometry[d] := by
    intro h d
    have := (vector_all_iff _ _).1 h d
    rw [hgs] at this
    rw [hge]
    obtain ⟨o, ho⟩ := Option.isSome_iff_exists.1 this
    rw [ho]; rfl
  have zsome : zs.toList.all (·.isSome) = true → ∀ d : ZoneIndex, parseZone (copyZoneBytes bytes d) = some zones[d] := by
    intro h d
    have := (vector_all_iff _ _).1 h d
    rw [hzs] at this
    rw [hzo]
    obtain ⟨o, ho⟩ := Option.isSome_iff_exists.1 this
    rw [ho]; rfl
  have hcap : ∀ (d : DevicePos) (g : Geometry), (gs.toList.all (·.isSome) = true) → geometry[d] = some g →
      byteAt (bytes.drop (12 + 8 * d.val)) 0 = 1 ∧ (byteAt (bytes.drop (12 + 8 * d.val)) 1).toNat ≤ 4 ∧ byteAt (bytes.drop
          (12 + 8 * d.val)) 5 ≠ 0 ∧ (byteAt (bytes.drop (12 + 8 * d.val)) 4 = 2 ∨ byteAt (bytes.drop (12 + 8 * d.val)) 4 = 3)
        ∧ g.capacity = 16 * 2 ^ (byteAt (bytes.drop (12 + 8 * d.val)) 1).toNat * (fieldAt (bytes.drop (12 + 8 * d.val)) 2 2 + 1)
          ∧ g.pageCount = fieldAt (bytes.drop (12 + 8 * d.val)) 2 2 + 1 ∧ g.width.bytes = (byteAt (bytes.drop
              (12 + 8 * d.val)) 4).toNat ∧ g.cycleTimeout = (byteAt (bytes.drop (12 + 8 * d.val)) 5).toNat := by
    intro d g h hg
    have := (hG d.val _).1 (gsome h d)
    rw [hg] at this
    rcases this with ⟨_, h⟩ | ⟨a, b, c, d', x, hx, e, f, g', h'⟩
    · cases h
    · cases hx
      exact ⟨a, b, c, d', by unfold Geometry.capacity; rw [e, f], f, g', h'⟩
  have width : ∀ (w : AddressWidth) (b : Byte), (w.bytes = b.toNat) → ((w = .two ↔ b = 2) ∧ (w = .three ↔ b = 3)) := by
    intro w b h
    have h2 := byte_eq_iff b 2 (by omega); have h3 := byte_eq_iff b 3 (by omega)
    have h2 : b = 2 ↔ b.toNat = 2 := h2
    have h3 : b = 3 ↔ b.toNat = 3 := h3
    rw [h2, h3, ← h]
    cases w <;> simp [AddressWidth.bytes]
  have main : cond ↔ CopyValid boot bytes := by
    constructor
    · rintro ⟨_, c1, c2, c3, c4, c5, c6, c7, c8⟩
      have leg : ∀ (d : DevicePos) g, geometry[d] = some g → g.legal = true := by
        intro d g hg
        unfold geometryLegal at c6
        rw [Bool.and_eq_true, List.all_eq_true] at c6
        have := c6.1 d (List.mem_finRange _)
        rw [hg] at this; exact this
      obtain ⟨g0, h0, h0w⟩ : ∃ g0, geometry[(0 : DevicePos)] = some g0 ∧ g0.width = boot := by
        cases h : geometry[(0 : DevicePos)] with
        | none => rw [h] at c7; cases c7
        | some g => rw [h] at c7; exact ⟨g, rfl, by simpa using c7⟩
      have hc0 : 1024 ≤ g0.capacity := by
        unfold geometryLegal at c6
        rw [Bool.and_eq_true] at c6
        have := c6.2; rw [h0] at this; simpa using this
      obtain ⟨a1, a2, a3, a4, a5, a6, a7, a8⟩ := hcap 0 g0 c4 h0
      refine ⟨(profileHead_iff _ hl).1 c1, (crcBytes_iff _ _ _).1 c2, c3, ?_, a1, ?_, ?_, ?_⟩
      · intro d hd
        rcases (hG d _).1 (gsome c4 ⟨d, hd⟩) with ⟨h, _⟩ | ⟨h1, h2, h3, h4, x, hx, k1, k2, k3, k4⟩
        · exact Or.inl h
        · refine Or.inr ⟨h1, h2, h3, ?_⟩
          rcases h4 with h4 | h4
          · left; refine ⟨h4, ?_⟩
            have hleg := leg ⟨d, hd⟩ x hx
            have hw : x.width = .two := ((width _ _ k3).1).2 h4
            have hcx : x.capacity = 16 * 2 ^ (byteAt (bytes.drop (12 + 8 * d)) 1).toNat * (fieldAt (bytes.drop
                (12 + 8 * d)) 2 2 + 1) := by
              unfold Geometry.capacity; rw [k1, k2]
            have hle : x.capacity ≤ 65536 := by
              unfold Geometry.legal at hleg
              simp [hw] at hleg; omega
            rw [hcx] at hle; exact hle
          · exact Or.inr h4
      · rw [a5] at hc0; exact hc0
      · have h7 := a7.symm; rw [h0w] at h7; refine Eq.trans h7 ?_; cases boot <;> rfl
      · intro i hi
        rcases (hZ i _).1 (zsome c5 ⟨i, hi⟩) with ⟨h, _⟩ | ⟨h1, x, hx, k1, k2, k3, k4, k5⟩
        · exact Or.inl h
        · right
          refine ⟨by rw [← k1]; exact x.device.isLt, (zoneModeCode_iff _).1 ⟨x.mode, k5⟩, by omega, ?_⟩
          have hf := (vector_all_iff _ _).1 c8 ⟨i, hi⟩
          rw [hx] at hf
          simp only [zoneFits] at hf
          cases hgd : geometry[x.device] with
          | none => rw [hgd] at hf; cases hf
          | some g =>
            rw [hgd] at hf
            have hf : x.last < g.pageCount := by simpa using hf
            obtain ⟨b1, b2, b3, b4, b5, b6, b7, b8⟩ := hcap x.device g c4 hgd
            rw [k1] at b1 b6
            refine ⟨b1, ?_⟩
            show fieldAt _ 4 2 < fieldAt _ 2 2 + 1
            rw [← b6, ← k3]; exact hf
    · rintro ⟨v1, v2, v3, v4, v5, v6, v7, v8⟩
      have c4 : gs.toList.all (·.isSome) = true := by
        rw [vector_all_iff]
        intro d
        rw [hgs]
        rcases v4 d.val d.isLt with h | ⟨h1, h2, h3, h4⟩
        · rw [(hG d.val none).2 (Or.inl ⟨h, rfl⟩)]; rfl
        · obtain ⟨size, hsz⟩ : ∃ size : PageSize, size.bytes = 16 * 2 ^ (byteAt (bytes.drop (12 + 8 * d.val)) 1).toNat := by
            generalize (byteAt (bytes.drop (12 + 8 * d.val)) 1).toNat = c at *
            have : c = 0 ∨ c = 1 ∨ c = 2 ∨ c = 3 ∨ c = 4 := by omega
            rcases this with rfl | rfl | rfl | rfl | rfl
            · exact ⟨.b16, rfl⟩
            · exact ⟨.b32, rfl⟩
            · exact ⟨.b64, rfl⟩
            · exact ⟨.b128, rfl⟩
            · exact ⟨.b256, rfl⟩
          obtain ⟨w, hw⟩ : ∃ w : AddressWidth, w.bytes = (byteAt (bytes.drop (12 + 8 * d.val)) 4).toNat := by
            rcases h4 with ⟨h4, _⟩ | h4
            · exact ⟨.two, by rw [h4]; rfl⟩
            · exact ⟨.three, by rw [h4]; rfl⟩
          rw [(hG d.val (some ⟨size, fieldAt (bytes.drop (12 + 8 * d.val)) 2 2 + 1, w, (byteAt (bytes.drop
              (12 + 8 * d.val)) 5).toNat⟩)).2
            (Or.inr ⟨h1, h2, h3, by rcases h4 with h | h; exact Or.inl h.1; exact Or.inr h, _, rfl, hsz, rfl, hw, rfl⟩)]; rfl
      have c5 : zs.toList.all (·.isSome) = true := by
        rw [vector_all_iff]
        intro i
        rw [hzs]
        rcases v8 i.val i.isLt with h | ⟨h1, h2, h3, h4, h5⟩
        · rw [(hZ i.val none).2 (Or.inl ⟨h, rfl⟩)]; rfl
        · by_cases hv : (byteAt (bytes.drop (76 + 8 * i.val)) 0).getLsbD 0 = false
          · rw [(hZ i.val none).2 (Or.inl ⟨hv, rfl⟩)]; rfl
          · obtain ⟨m, hm⟩ := (zoneModeCode_iff _).2 h2
            rw [(hZ i.val (some ⟨⟨_, h1⟩, fieldAt (bytes.drop (76 + 8 * i.val)) 2 2, fieldAt (bytes.drop
                (76 + 8 * i.val)) 4 2, m⟩)).2
              (Or.inr ⟨by simpa using hv, _, rfl, rfl, rfl, rfl, h3, hm⟩)]; rfl
      have present : ∀ d : DevicePos, byteAt (bytes.drop (12 + 8 * d.val)) 0 = 1 → ∃ g, geometry[d] = some g := by
        intro d h
        rcases (hG d.val _).1 (gsome c4 d) with ⟨h', _⟩ | ⟨_, _, _, _, x, hx, _⟩
        · rw [h] at h'; cases h'
        · exact ⟨x, hx⟩
      obtain ⟨g0, h0⟩ := present 0 v5
      obtain ⟨a1, a2, a3, a4, a5, a6, a7, a8⟩ := hcap 0 g0 c4 h0
      refine ⟨hl, (profileHead_iff _ hl).2 v1, (crcBytes_iff _ _ _).2 v2, v3, c4, c5, ?_, ?_, ?_⟩
      · unfold geometryLegal
        rw [Bool.and_eq_true, List.all_eq_true]
        constructor
        · intro d _
          cases hg : geometry[d] with
          | none => rfl
          | some g =>
            simp only
            obtain ⟨b1, b2, b3, b4, b5, b6, b7, b8⟩ := hcap d g c4 hg
            have hfl := fieldAt_two_lt (bytes.drop (12 + 8 * d.val)) 2
            have ht : 1 ≤ g.cycleTimeout := by
              rw [b8]
              have : byteAt (bytes.drop (12 + 8 * d.val)) 5 = 0 ↔ (byteAt (bytes.drop (12 + 8 * d.val)) 5).toNat = 0 :=
                  byte_eq_iff _ 0 (by omega)
              have := mt this.2 b3; omega
            have ht2 : g.cycleTimeout ≤ 255 := by rw [b8]; have := (byteAt (bytes.drop (12 + 8 * d.val)) 5).isLt; omega
            have hw : g.width = .three ∨ g.capacity ≤ 65536 := by
              rcases v4 d.val d.isLt with h | ⟨_, _, _, h4⟩
              · rw [b1] at h; cases h
              · rcases h4 with ⟨_, h4⟩ | h4
                · right; rw [b5]; exact h4
                · left; exact ((width _ _ b7).2).2 h4
            unfold Geometry.legal
            simp [ht, ht2, hw]; omega
        · rw [h0]; simp only [decide_eq_true_eq]; rw [a5]; exact v6
      · rw [h0]
        simp only [Option.map_some, Option.some.injEq]
        rw [show byteAt (bytes.drop (12 + 8 * (0 : DevicePos).val)) 4 = byteAt (bytes.drop (12 + 8 * 0)) 4 from rfl] at a7
        rw [v7] at a7
        cases boot <;> cases hgw : g0.width <;> rw [hgw] at a7 <;> first | rfl | cases a7
      · rw [vector_all_iff]
        intro i
        rcases (hZ i.val _).1 (zsome c5 i) with ⟨_, h⟩ | ⟨h1, x, hx, k1, k2, k3, k4, k5⟩
        · rw [h]; rfl
        · rw [hx]
          rcases v8 i.val i.isLt with h | ⟨_, _, _, h4, h5⟩
          · rw [h1] at h; cases h
          · rw [← k1] at h4 h5
            obtain ⟨g, hg⟩ := present x.device h4
            obtain ⟨b1, b2, b3, b4, b5, b6, b7, b8⟩ := hcap x.device g c4 hg
            simp only [zoneFits, hg, decide_eq_true_eq]
            rw [b6, k3]; exact h5
  constructor
  · rw [hj, ← main]
    by_cases h : cond <;> simp [h]
  · intro p hp
    rw [hj] at hp
    by_cases h : cond
    · rw [if_pos h] at hp
      cases hp
      obtain ⟨_, c1, c2, c3, c4, c5, c6, c7, c8⟩ := h
      refine ⟨by simp; omega, ?_, ?_⟩
      · intro d
        rcases (hG d.val _).1 (gsome c4 d) with h | ⟨h1, h2, h3, h4, x, hx, k1, k2, k3, k4⟩
        · exact Or.inl h
        · exact Or.inr ⟨x, hx, h1, k1, k2, k3, k4⟩
      · intro i
        rcases (hZ i.val _).1 (zsome c5 i) with h | ⟨h1, x, hx, k1, k2, k3, k4, k5⟩
        · exact Or.inl h
        · exact Or.inr ⟨x, hx, h1, k1, k2, k3, k5⟩
    · rw [if_neg h] at hp; cases hp

end Sys2Proof.Machine
end

