-- ==== Sys2Proof/Laws/Starts.lean ====
section
/-! SUPPORT. The starts of orders and the course of an event, said once in the relations of Safety.lean: the conflict rules (R83, R84),
every start at the head of the gather queue (R96), the choice of a read (R116), the follow-on actions and the joining of R91. -/

namespace Sys2Proof.Machine

/-! ### The course of an event -/

/-- R49, R91: the follow-on actions run one after another until there is none, or up to the bound. -/
theorem State.settleWithin_runs (N : Nat) (s : State) :
    ∃ n, n ≤ N ∧ s.RunsTo n (s.settleWithin N) ∧ ((s.settleWithin N).advance? = none ∨ n = N) := by
  induction N generalizing s with
  | zero => exact ⟨0, le_rfl, rfl, .inr rfl⟩
  | succ N ih =>
    cases h : s.advance? with
    | none =>
      have e : s.settleWithin (N + 1) = s := by simp [State.settleWithin, h]
      rw [e]; exact ⟨0, Nat.zero_le _, rfl, .inl h⟩
    | some v =>
      have e : s.settleWithin (N + 1) = v.settleWithin N := by simp [State.settleWithin, h]
      rw [e]
      obtain ⟨n, h1, h2, h3⟩ := ih v
      exact ⟨n + 1, by omega, ⟨v, h, h2⟩, h3.imp_right fun h => by omega⟩

/-- R91: what the joining at the end of an event does. -/
theorem State.joinStarted_eq (s : State) : s.joinStarted = { s with
    orders := { s.orders with done := s.orders.done ++ s.endedOf s.startedGather ++ s.endedOf s.startedRead }
    startedGather := [], startedRead := [] } := by
  unfold State.joinStarted
  rw [List.filter_append, ← List.append_assoc]; rfl

/-- The host side's end of an event leaves the Order Table and the started lists. -/
theorem State.hostSide_orders (s : State) : s.hostSide.orders = s.orders ∧ s.hostSide.startedGather = s.startedGather
    ∧ s.hostSide.startedRead = s.startedRead := by
  obtain ⟨a, b, c, d, h⟩ := s.grantMaster_frame
  unfold State.hostSide
  rw [h]; exact ⟨rfl, rfl, rfl⟩

/-- R150. -/
theorem State.loadEnd_eq (s : State) : s.loadEnd? =
    if s.loader.phase = some .wakeRest ∧ s.host.part = .loading ∧ ∀ d, (s.device d).state ≠ .waking then
      some { s with
        loader := { s.loader with phase := none }
        host := { s.host with
          part := (if s.host.run then .settingUp else .stopped), setupRequest := s.host.setupRequest || s.host.run } }
    else none := by
  have h : (s.devices.toList.all fun r => r.state ≠ .waking) = true ↔ ∀ d, (s.device d).state ≠ .waking := by
    rw [List.all_eq_true]
    constructor
    · intro h d
      have := h s.devices[d] (by simp)
      simpa [State.device] using this
    · intro h r hr
      obtain ⟨i, hi, rfl⟩ := List.mem_iff_getElem.1 hr
      have := h ⟨i, by simpa using hi⟩
      simpa [State.device] using this
  unfold State.loadEnd?
  by_cases hc : s.loader.phase = some .wakeRest ∧ s.host.part = .loading ∧ ∀ d, (s.device d).state ≠ .waking
  · rw [if_pos hc, if_pos ⟨hc.1, hc.2.1, h.2 hc.2.2⟩]
    cases hr : s.host.run <;> simp [State.enterSettingUp, hr]
  · rw [if_neg hc, if_neg (fun k => hc ⟨k.1, k.2.1, h.1 k.2.2⟩)]

theorem State.freeBuffers_all (s : State) : s.freeBuffers = 16 ↔ ∀ b, s.buffer? b = none := by
  have hl : s.pool.buffers.toList.length = 16 := by simp
  have h : s.freeBuffers = s.pool.buffers.toList.length ↔ ∀ o ∈ s.pool.buffers.toList, o.isNone = true :=
    List.length_filter_eq_length_iff
  rw [hl] at h
  rw [h]
  constructor
  · intro h b
    simpa [State.buffer?] using h (s.pool.buffers[b]) (by simp)
  · intro h a ha
    obtain ⟨i, hi, rfl⟩ := List.mem_iff_getElem.1 ha
    simpa [State.buffer?] using h ⟨i, by simpa using hi⟩

/-- R167. -/
theorem State.drainEnd_eq (s : State) (drains : Prop) (h : drains ↔ s.host.part = .draining ∧ (∀ e, s.entry? e = none)
      ∧ (∀ b, s.buffer? b = none) ∧ ∀ t ring slot, s.host.engine = some t → t.job ≠ .orderFetch ring slot) :
    (drains → s.drainEnd? = some { s with host := { s.host with part := .stopped } })
    ∧ (¬ drains → s.drainEnd? = none) := by
  have hf : s.fetchOnBus = false ↔ ∀ t ring slot, s.host.engine = some t → t.job ≠ .orderFetch ring slot := by
    unfold State.fetchOnBus
    cases he : s.host.engine with
    | none => simp
    | some t =>
      cases hj : t.job <;> simp [hj]
      all_goals (rintro _ _ _ rfl h; rw [hj] at h; cases h)
  unfold State.drainEnd?
  exact ⟨fun d => if_pos ⟨(h.1 d).1, s.occupancy_zero.2 (h.1 d).2.1, hf.2 (h.1 d).2.2.2, s.freeBuffers_all.2 (h.1 d).2.2.1⟩,
    fun d => if_neg fun k => d (h.2 ⟨k.1, s.occupancy_zero.1 k.2.1, s.freeBuffers_all.1 k.2.2.2, hf.1 k.2.2.1⟩)⟩

/-! ### The conflict rules of the gather queue -/

/-- R83, R84, for an accepted order. -/
theorem State.mayStartGather_iff (s : State) (e : EntryId) (x : Entry) (hx : s.entry? e = some x) (hs : x.sequence ≠ none) :
    s.mayStartGather e = true ↔ s.GatherAllowed x := by
  unfold State.mayStartGather State.GatherAllowed
  simp only [hx, List.all_eq_true, List.mem_finRange, true_implies]
  constructor
  · intro h e' y hy hE hr hst
    have := h e'
    simp only [hy] at this
    have hE' := (State.earlier_iff s e e' x y hx hy hs).2 hE
    have hh : y.state.holdsWrites = true := by rcases hst with h | h | h <;> rw [h] <;> rfl
    have hp : y.position = y.record.position := by simp [Entry.position, hr]
    simp only [hE', hr, hh, decide_true, Bool.and_self, Bool.true_and, Bool.not_eq_true', Bool.or_eq_false_iff] at this
    refine ⟨?_, ?_⟩
    · rintro ⟨hw, ht⟩
      have hw' : x.writes = true := by rcases hw with h | h | h <;> simp [Entry.writes, h]
      have := this.1
      rw [hw', (Entry.overlaps_iff y x).2 ht] at this; cases this
    · rintro ⟨hg, hpos⟩
      have hp' : x.position = x.record.position := by simp [Entry.position, hg]
      have := this.2
      rw [hp, hp'] at this
      simp [hg, hpos] at this
  · intro h e'
    cases hy : s.entry? e' with
    | none => rfl
    | some y =>
      simp only []
      rw [Bool.not_eq_true']
      by_contra hc
      simp only [Bool.not_eq_false, Bool.and_eq_true, Bool.or_eq_true, decide_eq_true_eq] at hc
      obtain ⟨⟨⟨hE, hr⟩, hh⟩, hc⟩ := hc
      have hst : y.state = .waiting ∨ y.state = .active ∨ y.state = .parked := by
        cases hys : y.state <;> simp_all [OrderState.holdsWrites]
      obtain ⟨h1, h2⟩ := h e' y hy ((State.earlier_iff s e e' x y hx hy hs).1 hE) hr hst
      have hp : y.position = y.record.position := by simp [Entry.position, hr]
      rcases hc with ⟨hw, ho⟩ | ⟨hg, hpos⟩
      · apply h1
        refine ⟨?_, (Entry.overlaps_iff y x).1 ho⟩
        revert hw; unfold Entry.writes; cases x.kind <;> simp
      · have hp' : x.position = x.record.position := by simp [Entry.position, hg]
        exact h2 ⟨hg, by rw [← hp, hpos, hp']⟩

/-! ### Leaving the gather queue -/

theorem State.entry_leaveQueue (s : State) (e e' : EntryId) (x : Entry) (hx : s.entry? e = some x) :
    (s.leaveQueue e).entry? e' = if e' = e then some { x with state := .active } else s.entry? e' := by
  show (s.mapEntry e _).entry? e' = _
  rw [State.entry_mapEntry, hx]; rfl

/-- R91: an order that ends in the event it started in waits for the event's end. -/
theorem State.goDone_waits (s : State) (e : EntryId) (r : Result) (h : e ∈ s.startedGather) :
    s.goDone e r = s.mapEntry e fun x => { x with state := .done, result := some r } := by
  unfold State.goDone; simp [h]

/-- R78, R91, R96: the end of the order that has just left the queue, in a state that differs elsewhere. -/
theorem State.headEnds_goDone (s u : State) (e : EntryId) (x : Entry) (r : Result)
    (hu : u = { s with
        orders := { s.orders with entries := u.orders.entries }
        gather := { s.gather with queue := s.gather.queue.filter (· ≠ e) }
        startedGather := s.startedGather ++ [e] })
    (hx : ∃ st, u.entry? e = some { x with state := st }) (ho : ∀ e', e' ≠ e → u.entry? e' = s.entry? e') :
    s.HeadEnds (u.goDone e r) e x r := by
  have hm : e ∈ u.startedGather := by rw [hu]; simp
  rw [State.goDone_waits u e r hm]
  obtain ⟨st, hx⟩ := hx
  refine ⟨?_, ?_, fun e' h => ?_⟩
  · conv_lhs => rw [hu]
    rfl
  · rw [State.entry_mapEntry, if_pos rfl, hx]; rfl
  · rw [State.entry_mapEntry, if_neg h]; exact ho e' h

/-- R96: an order that fails a start check. -/
theorem State.leaveQueue_ends (s : State) (e : EntryId) (x : Entry) (r : Result) (hx : s.entry? e = some x) :
    s.HeadEnds ((s.leaveQueue e).goDone e r) e x r :=
  s.headEnds_goDone _ e x r rfl ⟨_, by rw [s.entry_leaveQueue e e x hx, if_pos rfl]⟩
    fun e' h => by rw [s.entry_leaveQueue e e' x hx, if_neg h]

/-- R96: an order that passes its checks and holds the turn. -/
theorem State.leaveQueue_takesTurn (s : State) (e : EntryId) (x : Entry) (work : TurnWork) (hx : s.entry? e = some x) :
    s.HeadTakesTurn ((s.leaveQueue e).beginTurn e work) e x work :=
  ⟨rfl, by show (s.leaveQueue e).entry? e = _; rw [s.entry_leaveQueue e e x hx, if_pos rfl],
    fun e' h => by show (s.leaveQueue e).entry? e' = _; rw [s.entry_leaveQueue e e' x hx, if_neg h]⟩

/-- R16: every GATHERING buffer that meets `p` is closed, the oldest first. -/
theorem State.closeAll_gathering (s : State) (p : Buffer → Bool) : s.ClosesGathering (s.closeAll (s.gatheringWhere p)) p := by
  have hs := oldestFirst_spec s.bufferAge (s.buffersWhere fun y => y.state = .gathering && p y)
  have hn : (s.gatheringWhere p).Nodup := hs.1.nodup_iff.2 (s.buffersWhere_nodup _)
  have hmem : ∀ b, b ∈ s.gatheringWhere p ↔ ∃ y, s.buffer? b = some y ∧ y.state = .gathering ∧ p y = true := by
    intro b
    show b ∈ oldestFirst _ _ ↔ _
    rw [hs.1.mem_iff, State.mem_buffersWhere]; simp
  obtain ⟨hb, hq⟩ := s.closeAll_closes _ hn
  refine ⟨fun b => ?_, fun c => ⟨_, hq c, hs.2.filter _, hn.filter _, fun b => ?_⟩⟩
  · rw [hb b]
    cases hy : s.buffer? b with
    | none => rfl
    | some y =>
      have : b ∈ s.gatheringWhere p ↔ y.state = .gathering ∧ p y = true := by rw [hmem, hy]; simp
      by_cases hg : y.state = .gathering <;> by_cases hp : p y = true <;> simp [this, hg, hp]
  · rw [List.mem_filter, hmem]
    cases hy : s.buffer? b with
    | none => simp
    | some y => simp; tauto

/-- R107, R110: the watch of the order that has just left the queue, in a state that differs elsewhere. -/
theorem State.headWatches_takeWatch (s u : State) (e : EntryId) (x : Entry) (st : OrderState) (turn : Option Turn) (p : Buffer → Bool)
    (hp : ∀ y : Buffer, p { y with state := .closed, linger := none } = p y)
    (hu : u = { s with
        orders := { s.orders with entries := u.orders.entries }
        gather := ⟨s.gather.queue.filter (· ≠ e), turn⟩
        startedGather := s.startedGather ++ [e] })
    (hx : ∃ st, u.entry? e = some { x with state := st }) (ho : ∀ e', e' ≠ e → u.entry? e' = s.entry? e') :
    s.HeadWatches (u.takeWatch e st p) e x st turn p := by
  have hc := u.closeAll_gathering p
  have hf := u.closeAll_frame (u.gatheringWhere p)
  have ht : u.takeWatch e st p = (u.closeAll (u.gatheringWhere p)).mapEntry e (fun x => { x with
      state := st, watch := (u.closeAll (u.gatheringWhere p)).buffersWhere p
      progress := ((u.closeAll (u.gatheringWhere p)).buffersWhere p).length }) := rfl
  rw [ht]
  generalize u.closeAll (u.gatheringWhere p) = v at hc hf ⊢
  have hbu : ∀ b, u.buffer? b = s.buffer? b := fun b => by rw [hu]; rfl
  have hn := v.buffersWhere_nodup p
  have hm : ∀ b, b ∈ v.buffersWhere p ↔ ∃ y, s.buffer? b = some y ∧ p y = true := by
    intro b
    rw [State.mem_buffersWhere, hc.buffers b, hbu]
    cases s.buffer? b with
    | none => simp
    | some y =>
      by_cases hg : y.state = .gathering ∧ p y = true
      · simp [hg, hp]
      · simp [hg]
  generalize v.buffersWhere p = l at hn hm ⊢
  obtain ⟨entries, rfl⟩ : ∃ entries, u = { s with
      orders := { s.orders with entries := entries }
      gather := ⟨s.gather.queue.filter (· ≠ e), turn⟩
      startedGather := s.startedGather ++ [e] } := ⟨_, hu⟩
  obtain ⟨buffers, channels, rfl⟩ : ∃ buffers channels, v = { s with
      orders := { s.orders with entries := entries }
      gather := ⟨s.gather.queue.filter (· ≠ e), turn⟩
      startedGather := s.startedGather ++ [e]
      pool := { s.pool with buffers := buffers }
      channels := channels } := ⟨_, _, hf⟩
  obtain ⟨x0, hx⟩ := hx
  refine ⟨rfl, ⟨hc.buffers, hc.queues⟩, ⟨l, ?_, hn, hm⟩, fun e' h => ?_⟩
  · rw [State.entry_mapEntry, if_pos rfl]
    exact (congrArg (Option.map _) hx).trans rfl
  · rw [State.entry_mapEntry, if_neg h]; exact ho e' h

/-! ### The starts, kind by kind -/

theorem State.pageSize_pos (s : State) (d : DevicePos) : 0 < s.pageSize d := by
  unfold State.pageSize
  split
  · rename_i g _; cases g.pageSize <;> decide
  · decide

/-- R97. -/
theorem State.startMerging_starts (s : State) (e : EntryId) (x : Entry) (work : TurnWork) (hx : s.entry? e = some x)
    (hk : x.kind = .write ∨ x.kind = .fill) : s.WriteStarts (s.startMerging e x work) e x work := by
  have hp : x.position = x.record.position := by rcases hk with h | h <;> simp [Entry.position, h]
  have hl : ((pagesOf (s.pageSize x.record.position) x.record.address.toNat x.record.length).any
        (s.pageLocked x.record.position)) = true ↔
      ∃ p, x.record.address.toNat / s.pageSize x.record.position ≤ p
        ∧ p ≤ (x.record.address.toNat + x.record.length - 1) / s.pageSize x.record.position
        ∧ s.Locked x.record.position p := by
    have hm : x.record.address.toNat / s.pageSize x.record.position
        ≤ (x.record.address.toNat + x.record.length - 1) / s.pageSize x.record.position :=
      Nat.div_le_div_right (by simp only [OrderRecord.length]; omega)
    simp only [List.any_eq_true, pagesOf, List.mem_range'_1, State.pageLocked_iff]
    constructor
    · rintro ⟨p, ⟨h1, h2⟩, h3⟩; exact ⟨p, h1, by omega, h3⟩
    · rintro ⟨p, h1, h2, h3⟩; exact ⟨p, ⟨h1, by omega⟩, h3⟩
  have hr : ∀ d a, touchesReserved d a = true ↔ d = 0 ∧ a < 1024 := fun d a => by simp [touchesReserved]
  unfold State.WriteStarts State.startMerging State.writeCheck State.capacity
  simp only [hp]
  by_cases h1 : (s.device x.record.position).state = .absent
  · simp only [h1, if_true]; exact s.leaveQueue_ends e x _ hx
  by_cases h2 : (s.device x.record.position).state = .offline
  · simp only [h2, reduceCtorEq, if_true, if_false]; exact s.leaveQueue_ends e x _ hx
  by_cases h3 : s.pageSize x.record.position * s.pageCount x.record.position < x.record.address.toNat + x.record.length
  · simp only [h1, h2, h3, if_true, if_false]; exact s.leaveQueue_ends e x _ hx
  by_cases h4 : x.record.position = 0 ∧ x.record.address.toNat < 1024
  · simp only [h1, h2, h3, (hr _ _).2 h4, if_pos h4, if_true, if_false]; exact s.leaveQueue_ends e x _ hx
  have h4' : touchesReserved x.record.position x.record.address.toNat = false := by
    rw [← Bool.not_eq_true]; exact fun h => h4 ((hr _ _).1 h)
  simp only [h1, h2, h3, h4', if_neg h4, if_false, Bool.false_eq_true]
  refine ⟨fun h => ?_, fun h => ?_⟩
  · rw [if_pos (hl.2 h)]; exact s.leaveQueue_ends e x _ hx
  · rw [if_neg (fun k => h (hl.1 k))]; exact s.leaveQueue_takesTurn e x work hx

/-- R107, R108. -/
theorem State.startFlush_starts (s : State) (e : EntryId) (x : Entry) (ht : s.gather.turn = none) (hx : s.entry? e = some x)
    (hk : x.kind = .flush) :
    s.FlushStarts (s.startFlush e x) e x := by
  have hp : x.position = x.record.position := by simp [Entry.position, hk]
  have hd : x.record.allDevices = false ↔ x.record.device ≠ 15 := by simp [OrderRecord.allDevices]
  have hs : (fun y : Buffer => x.inScope y.device) = fun y => x.record.device = 15 || x.record.position = y.device := by
    funext y; simp [Entry.inScope, OrderRecord.allDevices]
  have hb : s.buffersWhere (fun y => x.inScope y.device) = [] ↔
      ∀ b y, s.buffer? b = some y → (x.record.device = 15 || x.record.position = y.device) = false := by
    rw [List.eq_nil_iff_forall_not_mem, hs]
    simp only [State.mem_buffersWhere, not_exists, not_and, Bool.not_eq_true]
  have hst : s.startFlush e x = if x.record.device ≠ 15 ∧ (s.device x.record.position).state = .absent then
      (s.leaveQueue e).goDone e (.plain .noDevice 0)
    else if s.buffersWhere (fun y => x.inScope y.device) = [] then (s.leaveQueue e).reportFlush e
    else (s.leaveQueue e).takeWatch e .held (fun y => x.inScope y.device) := by
    unfold State.startFlush
    simp only [hd, hp]
  unfold State.FlushStarts
  rw [hst]
  by_cases h1 : x.record.device ≠ 15 ∧ (s.device x.record.position).state = .absent
  · simp only [if_pos h1]; exact s.leaveQueue_ends e x _ hx
  simp only [if_neg h1]
  by_cases h2 : s.buffersWhere (fun y => x.inScope y.device) = []
  · rw [if_pos h2, if_pos (hb.1 h2)]
    have hr : (s.leaveQueue e).reportFlush e =
        { (s.leaveQueue e).goDone e (s.flushTakes x) with pool := { s.pool with
          failures := s.pool.failures.filter fun f => !(x.record.device = 15 || x.record.position = f.device)
          dropped := if x.record.device = 15 then 0 else s.pool.dropped } } := by
      have hm : e ∈ (s.leaveQueue e).startedGather := by simp [State.leaveQueue]
      have hfr : (s.leaveQueue e).flushResult { x with state := .active } = s.flushTakes x := by
        simp [State.flushResult, State.flushTakes, Entry.inScope_eq, Entry.inScopeOf, OrderRecord.allDevices, State.leaveQueue,
          State.mapEntry]
      unfold State.reportFlush
      rw [s.entry_leaveQueue e e x hx, if_pos rfl]
      simp only [hfr]
      rw [State.goDone_waits _ e _ (by exact hm)]
      simp only [Entry.inScope_eq, Entry.inScopeOf, OrderRecord.allDevices, decide_eq_true_eq]
      rw [State.goDone_waits (s.leaveQueue e) e _ hm]
      rfl
    exact ⟨_, s.leaveQueue_ends e x _ hx, hr⟩
  · rw [if_neg h2, if_neg (fun k => h2 (hb.2 k)), hs]
    exact s.headWatches_takeWatch _ e x .held none _ (fun _ => rfl) (by rw [← ht]; rfl)
      ⟨_, by rw [s.entry_leaveQueue e e x hx, if_pos rfl]⟩
      fun e' h => by rw [s.entry_leaveQueue e e' x hx, if_neg h]

/-- R111: a barrier order with nothing to wait for. -/
theorem State.takeWatch_none (s : State) (e : EntryId) (st : OrderState) (p : Buffer → Bool)
    (h : ∀ b y, s.buffer? b = some y → p y = false) :
    s.takeWatch e st p = s.mapEntry e fun x => { x with state := st, watch := [], progress := 0 } := by
  have h1 : s.buffersWhere p = [] := by
    rw [List.eq_nil_iff_forall_not_mem]; intro b hb
    obtain ⟨y, hy, hp⟩ := (s.mem_buffersWhere p b).1 hb
    rw [h b y hy] at hp; cases hp
  have h2 : s.gatheringWhere p = [] := by
    rw [List.eq_nil_iff_forall_not_mem]; intro b hb
    unfold State.gatheringWhere at hb
    rw [(oldestFirst_spec _ _).1.mem_iff, State.mem_buffersWhere] at hb
    obtain ⟨y, hy, hp⟩ := hb
    rw [h b y hy] at hp; simp at hp
  have h3 : s.closeAll (s.gatheringWhere p) = s := by rw [h2]; rfl
  unfold State.takeWatch
  simp only [h3, h1, List.length_nil]

/-- R111: the start of a barrier order, with and without buffers to wait for. -/
theorem State.startBarrier_starts (s s' : State) (e : EntryId) (x' : Entry) (st : OrderState) (p : Buffer → Bool)
    (hp : ∀ y : Buffer, p { y with state := .closed, linger := none } = p y)
    (hs : s' = { s with orders := { s.orders with entries := s'.orders.entries } })
    (hx : s'.entry? e = some x') (ho : ∀ e', e' ≠ e → s'.entry? e' = s.entry? e') :
    ((∃ b y, s.buffer? b = some y ∧ p y = true) →
      s.HeadWatches (s'.startBarrier e st p) e x' st (some ⟨e, .barrier, none, none, [], []⟩) p)
    ∧ ((∀ b y, s.buffer? b = some y → p y = false) →
      ∃ v : State, s'.startBarrier e st p = v.actBarrier
        ∧ v = { s with
            orders := { s.orders with entries := v.orders.entries }
            gather := ⟨s.gather.queue.filter (· ≠ e), some ⟨e, .barrier, none, none, [], []⟩⟩
            startedGather := s.startedGather ++ [e] }
        ∧ v.barrierDue = some (e, { x' with state := st, watch := [], progress := 0 })
        ∧ v.entry? e = some { x' with state := st, watch := [], progress := 0 }
        ∧ ∀ e', e' ≠ e → v.entry? e' = s.entry? e') := by
  obtain ⟨entries, rfl⟩ : ∃ entries, s' = { s with orders := { s.orders with entries := entries } } := ⟨_, hs⟩
  set s' : State := { s with orders := { s.orders with entries := entries } } with hs'
  have he : ((s'.leaveQueue e).beginTurn e .barrier).entry? e = some { x' with state := .active } := by
    show (s'.leaveQueue e).entry? e = _; rw [s'.entry_leaveQueue e e x' hx, if_pos rfl]
  have heo : ∀ e', e' ≠ e → ((s'.leaveQueue e).beginTurn e .barrier).entry? e' = s.entry? e' := by
    intro e' h; show (s'.leaveQueue e).entry? e' = _; rw [s'.entry_leaveQueue e e' x' hx, if_neg h]; exact ho e' h
  constructor
  · rintro ⟨b, y, hb, hy⟩
    have hw := s.headWatches_takeWatch ((s'.leaveQueue e).beginTurn e .barrier) e x' st (some ⟨e, .barrier, none, none, [], []⟩) p hp rfl
      ⟨_, he⟩ heo
    unfold State.startBarrier
    have hn : (((s'.leaveQueue e).beginTurn e .barrier).takeWatch e st p).actBarrier
        = ((s'.leaveQueue e).beginTurn e .barrier).takeWatch e st p := by
      obtain ⟨h1, -, ⟨w, h2, -, h3⟩, -⟩ := hw
      generalize ((s'.leaveQueue e).beginTurn e .barrier).takeWatch e st p = v at h1 h2 ⊢
      have hne : w ≠ [] := by rintro rfl; exact absurd ((h3 b).2 ⟨y, hb, hy⟩) (by simp)
      have ht : v.gather.turn = some ⟨e, .barrier, none, none, [], []⟩ := by rw [h1]
      unfold State.actBarrier State.barrierDue State.atTurn
      rw [ht]; simp [h2, hne]
    rw [hn]; exact hw
  · intro h
    have hw := State.takeWatch_none ((s'.leaveQueue e).beginTurn e .barrier) e st p h
    unfold State.startBarrier
    rw [hw]
    have hve : (((s'.leaveQueue e).beginTurn e .barrier).mapEntry e fun x => { x with state := st, watch := [], progress := 0 }).entry? e
        = some { x' with state := st, watch := [], progress := 0 } := by
      rw [State.entry_mapEntry, if_pos rfl, he]; rfl
    refine ⟨_, rfl, rfl, ?_, hve, fun e' h => ?_⟩
    · unfold State.barrierDue State.atTurn
      have ht : (((s'.leaveQueue e).beginTurn e .barrier).mapEntry e fun x => { x with
        state := st, watch := [], progress := 0 }).gather.turn = some ⟨e, .barrier, none, none, [], []⟩ := rfl
      rw [ht]; simp only [hve]; rfl
    · rw [State.entry_mapEntry, if_neg h]; exact heo e' h

/-- R96, R111: a barrier order that acts at its start gives its turn up and ends. -/
theorem State.headEnds_release (s v : State) (e : EntryId) (x : Entry) (r : Result) (ht : s.gather.turn = none)
    (hv : v = { s with
      orders := { s.orders with entries := v.orders.entries }
      gather := ⟨s.gather.queue.filter (· ≠ e), some ⟨e, .barrier, none, none, [], []⟩⟩
      startedGather := s.startedGather ++ [e] })
    (hx : ∃ st, v.entry? e = some { x with state := st }) (ho : ∀ e', e' ≠ e → v.entry? e' = s.entry? e') :
    s.HeadEnds (v.releaseTurn.goDone e r) e x r := by
  refine s.headEnds_goDone v.releaseTurn e x r ?_ hx ho
  obtain ⟨entries, rfl⟩ : ∃ entries, v = { s with
      orders := { s.orders with entries := entries }
      gather := ⟨s.gather.queue.filter (· ≠ e), some ⟨e, .barrier, none, none, [], []⟩⟩
      startedGather := s.startedGather ++ [e] } := ⟨_, hv⟩
  simp [State.releaseTurn, ht]

/-- R138, R139. -/
theorem State.startSetZone_starts (s : State) (e : EntryId) (x : Entry) (new : Option Zone) (ht : s.gather.turn = none)
    (hx : s.entry? e = some x) (hk : x.kind = .setZone) (hz : x.record.zone = some new) :
    s.SetZoneStarts (s.startSetZone e x) e x new := by
  have hg : s.guardsIndex x.record.zoneIndex = true ↔
      s.zones.guard = true ∧ ∃ z, s.zones.entries[x.record.zoneIndex] = some z ∧ z.mode = .guardedZone := by
    unfold State.guardsIndex
    cases s.zones.entries[x.record.zoneIndex] <;> simp
  have hcov : ∀ (z : Option Zone) (y : Buffer), s.coversBuffer z y = true ↔ s.Concerns z y := by
    intro z y
    unfold State.coversBuffer State.Concerns State.covers
    cases z <;> simp [and_assoc]
  have hz' : x.record.zone.getD none = new := by rw [hz]; rfl
  have hc : s.setZoneCheck x = if s.guardsIndex x.record.zoneIndex = true then some .protection
      else match new with
        | none => none
        | some z => if s.pageCount z.device ≤ z.last then some .badRange else none := by
    subst hz'; rfl
  have hs : s.startSetZone e x = match s.setZoneCheck x with
      | some st => (s.leaveQueue e).goDone e (.plain st 0)
      | none => s.startBarrier e .held fun y =>
          s.coversBuffer s.zones.entries[x.record.zoneIndex] y || s.coversBuffer new y := by
    subst hz'; rfl
  obtain ⟨hb1, hb2⟩ := s.startBarrier_starts s e x .held
    (fun y => s.coversBuffer s.zones.entries[x.record.zoneIndex] y || s.coversBuffer new y) (fun _ => rfl) rfl hx fun _ _ => rfl
  unfold State.SetZoneStarts
  refine ⟨fun g => ?_, fun g r => ?_, fun g r c => ?_, fun g r c => ?_⟩
  · rw [hs, hc, if_pos (hg.2 g)]; exact s.leaveQueue_ends e x _ hx
  · obtain ⟨z, rfl, hl⟩ := r
    rw [hs, hc, if_neg (fun k => g (hg.1 k))]
    simp only [hl, if_true]
    exact s.leaveQueue_ends e x _ hx
  · have hn : s.setZoneCheck x = none := by
      rw [hc, if_neg (fun k => g (hg.1 k))]
      cases new with
      | none => rfl
      | some z => exact if_neg fun k => r ⟨z, rfl, k⟩
    obtain ⟨v, h1, h2, h3, h4, h5⟩ := hb2 fun b y hy => by
      by_contra hp
      rw [Bool.not_eq_false, Bool.or_eq_true, hcov, hcov] at hp
      exact c ⟨b, y, hy, hp⟩
    have hv : v.guardsIndex x.record.zoneIndex = false := by
      rw [← Bool.not_eq_true]; intro k
      refine g (hg.1 ?_)
      rw [h2] at k; exact k
    have hm : e ∈ v.startedGather := by rw [h2]; simp
    have ha : v.actBarrier = v.actSetZone e { x with state := .held, watch := [], progress := 0 } := by
      unfold State.actBarrier; rw [h3]; simp only [hk]
    rw [hs, hn]; simp only []
    rw [h1, ha]
    unfold State.actSetZone
    simp only [hv, hz', if_false, Bool.false_eq_true]
    refine ⟨_, s.headEnds_release v e { x with watch := [], progress := 0 } ⟨.ok, 0, none⟩ ht h2 ⟨_, h4⟩ h5, ?_⟩
    · rw [State.goDone_waits v.releaseTurn e _ hm, State.goDone_waits _ e _ (by exact hm)]
      conv_lhs => rw [h2]
      conv_rhs => rw [h2]
      rfl
  · have hn : s.setZoneCheck x = none := by
      rw [hc, if_neg (fun k => g (hg.1 k))]
      cases new with
      | none => rfl
      | some z => exact if_neg fun k => r ⟨z, rfl, k⟩
    rw [hs, hn]
    refine ⟨_, fun y => ?_, hb1 ?_⟩
    · rw [Bool.or_eq_true, hcov, hcov]
    · obtain ⟨b, y, hy, hp⟩ := c
      exact ⟨b, y, hy, by rw [Bool.or_eq_true, hcov, hcov]; exact hp⟩

/-- R40, R152. -/
theorem State.applyGeometry_applies (s : State) (d : DevicePos) (g : Option Geometry) :
    s.GeometryApplied (s.applyGeometry d g) d g
    ∧ s.applyGeometry d g = { s with
        loader := { s.loader with geometry := (s.applyGeometry d g).loader.geometry }
        devices := (s.applyGeometry d g).devices, channels := (s.applyGeometry d g).channels } := by
  have hgeo : ∀ d' : DevicePos, (s.loader.geometry.set d g)[d'] = if d' = d then g else s.loader.geometry[d'] := by
    intro d'
    by_cases h : d' = d
    · subst h; simp
    · rw [if_neg h]; simp [Vector.getElem_set]; intro h'; exact absurd (Fin.ext h'.symm) h
  have hct : ∀ x, g = some x → (s.setGeometry d g).cycleTimeout d = x.cycleTimeout := by
    intro x hx; unfold State.cycleTimeout State.setGeometry; simp [hx]
  have hwake : ∀ x, g = some x → ∀ u, u = (s.setGeometry d g).wake d →
      u = { s with loader := { s.loader with geometry := u.loader.geometry }, devices := u.devices, channels := u.channels }
      ∧ u.loader.geometry = s.loader.geometry.set d g ∧ u.device d = (s.device d).wakes x
      ∧ (∀ d', d' ≠ d → u.device d' = s.device d')
      ∧ ∀ c, u.channel c = if c = channelOf d then
          { s.channel c with waiting := (s.channel c).waiting ++ [⟨d, .ask .wake, s.event⟩] } else s.channel c := by
    rintro x hx u rfl
    let f : DeviceRecord → DeviceRecord := fun r => { r with
      state := .waking, wakeLimit := some ((s.setGeometry d g).cycleTimeout d), cycleTimer := none, pollTimer := false,
      noAnswer := 0, confirming := false }
    obtain ⟨-, k1, k2⟩ := (s.setGeometry d g).mapDevice_becomes d f
    obtain ⟨-, q⟩ := ((s.setGeometry d g).mapDevice d f).queueItem_queues d (.ask .wake)
    refine ⟨rfl, rfl, ?_, fun d' h => (k2 d' h).trans rfl, fun c => q c⟩
    refine k1.trans ?_
    simp only [f, hct x hx]; rfl
  have woken : ∀ x, g = some x → ((s.loader.geometry[d]).isSome = false ∨ (s.device d).state = .offline) →
      s.applyGeometry d g = (s.setGeometry d g).wake d → s.GeometryApplied (s.applyGeometry d g) d g
      ∧ s.applyGeometry d g = { s with
        loader := { s.loader with geometry := (s.applyGeometry d g).loader.geometry }
        devices := (s.applyGeometry d g).devices, channels := (s.applyGeometry d g).channels } := by
    intro x hx hc he
    obtain ⟨h1, h2, h3, h4, h5⟩ := hwake x hx _ he
    generalize s.applyGeometry d g = u at h1 h2 h3 h4 h5 ⊢
    refine ⟨⟨fun d' => ?_, h4, fun c h => ?_, ?_⟩, h1⟩
    · rw [h2]; exact hgeo d'
    · rw [h5 c, if_neg h]
    · subst hx
      simp only []
      rw [if_pos hc]
      exact ⟨h3, by rw [h5, if_pos rfl]⟩
  cases hb : (s.loader.geometry[d]).isSome with
  | false =>
    cases hg : g with
    | none =>
      have he : s.applyGeometry d none = s.setGeometry d none := by
        unfold State.applyGeometry; rw [hb]; rfl
      rw [he]
      subst hg
      refine ⟨⟨hgeo, fun _ _ => rfl, fun _ _ => rfl, ?_⟩, rfl⟩
      simp only [hb, Bool.false_eq_true, if_false]
      exact ⟨rfl, rfl⟩
    | some x =>
      rw [← hg]
      refine woken x hg (.inl hb) ?_
      unfold State.applyGeometry; rw [hb, hg]; rfl
  | true =>
    cases hg : g with
    | none =>
      subst hg
      let f : DeviceRecord → DeviceRecord := fun r => { r with
        state := .absent, wakeLimit := none, cycleTimer := none, pollTimer := false, noAnswer := 0, confirming := false }
      have he : s.applyGeometry d none = (((s.setGeometry d none).mapDevice d f).withdrawItems d).dropFrame d := by
        unfold State.applyGeometry; rw [hb]; rfl
      obtain ⟨-, k1, k2⟩ := (s.setGeometry d none).mapDevice_becomes d f
      rw [he]
      have hch : ∀ c, ((((s.setGeometry d none).mapDevice d f).withdrawItems d).dropFrame d).channel c
          = if c = channelOf d then { s.channel (channelOf d) with
            waiting := (s.channel (channelOf d)).waiting.filter fun i => i.device ≠ d ∨ i.work.isRevive,
            frame := (s.channel (channelOf d)).frame.map fun f =>
              { f with dropped := f.dropped || (f.device = d && (match f.content with
                  | .ask (.revive _) => false
                  | _ => true)) } } else s.channel c := by
        intro c
        unfold State.dropFrame State.withdrawItems
        rw [State.channel_mapChannel, State.channel_mapChannel]
        rw [show ((s.setGeometry d none).mapDevice d f).channel c = s.channel c from rfl]
        by_cases h : c = channelOf d
        · subst h
          simp only [if_true]
          congr 1
          · cases (s.channel (channelOf d)).frame with
            | none => rfl
            | some fr =>
              simp only [Option.map_some, Option.some.injEq]
              obtain ⟨fd, fc, fw, fdr⟩ := fr
              by_cases hd : fd = d
              · subst hd
                cases fc with
                | ask p => cases p <;> simp
                | stream p a n => simp
                | programStart b a n => simp
              · simp [hd]
          · apply List.filter_congr; intro i _; simp
        · simp [h]
      refine ⟨⟨hgeo, fun d' h => (k2 d' h).trans rfl, fun c h => by rw [hch, if_neg h], ?_⟩, rfl⟩
      simp only [hb, if_true]
      exact ⟨k1, (hch _).trans (if_pos rfl)⟩
    | some x =>
      rw [← hg]
      by_cases ho : (s.device d).state = .offline
      · refine woken x hg (.inr ho) ?_
        unfold State.applyGeometry; rw [hb, hg]
        unfold State.geometryChanged
        rw [show ((s.setGeometry d (some x)).device d).state = .offline from ho]; rfl
      · have hct' : ∀ u, u = s.applyGeometry d g → u = (if (s.device d).state = .waking
            then (s.setGeometry d g).mapDevice d fun r => { r with wakeLimit := some x.cycleTimeout } else s.setGeometry d g) := by
          rintro u rfl
          rw [← hct x hg]
          unfold State.applyGeometry; rw [hb, hg]
          unfold State.geometryChanged
          show (match (s.device d).state with
            | .offline => _ | .waking => _ | _ => _) = _
          cases h : (s.device d).state with
          | offline => exact absurd h ho
          | _ => rfl
        have he := hct' _ rfl
        obtain ⟨-, k1, k2⟩ := (s.setGeometry d g).mapDevice_becomes d fun r => { r with wakeLimit := some x.cycleTimeout }
        rw [he]
        have hn : ¬ ((s.loader.geometry[d]).isSome = false ∨ (s.device d).state = .offline) := by rw [hb]; simp [ho]
        by_cases hw : (s.device d).state = .waking
        · simp only [if_pos hw]
          refine ⟨⟨hgeo, fun d' h => (k2 d' h).trans rfl, fun _ _ => rfl, ?_⟩, rfl⟩
          rw [hg]; simp only []
          rw [if_neg hn, if_pos hw]
          rw [hg] at k1
          exact ⟨k1, rfl⟩
        · simp only [if_neg hw]
          refine ⟨⟨hgeo, fun _ _ => rfl, fun _ _ => rfl, ?_⟩, rfl⟩
          rw [hg]; simp only []
          rw [if_neg hn, if_neg hw]
          exact ⟨rfl, rfl⟩

/-- R151, R152. -/
theorem State.startSetGeometry_starts (s : State) (e : EntryId) (x : Entry) (new : Option Geometry) (ht : s.gather.turn = none)
    (hx : s.entry? e = some x) (hk : x.kind = .setGeometry) (hz : x.record.geometry = some new) :
    s.SetGeometryStarts (s.startSetGeometry e x) e x new := by
  have hp : x.position = x.record.position := by simp [Entry.position, hk]
  have hz' : x.record.geometry.getD none = new := by rw [hz]; rfl
  have hfit : s.setGeometryOk x = true ↔ s.GeometryFits x.record.position new := by
    unfold State.setGeometryOk State.GeometryFits Geometry.capacity
    rw [hz', hp]
    cases new with
    | none => simp
    | some g => simp; tauto
  obtain ⟨hb1, hb2⟩ := s.startBarrier_starts s e x .held (fun y => y.device = x.record.position) (fun _ => rfl) rfl hx fun _ _ => rfl
  have hs : s.startSetGeometry e x = if s.setGeometryOk x = true then s.startBarrier e .held fun y => y.device = x.record.position
      else (s.leaveQueue e).goDone e (.plain .badOrder 0) := by
    unfold State.startSetGeometry; rw [hp]
  unfold State.SetGeometryStarts
  refine ⟨fun f => ?_, fun f c => ?_, fun f c => ?_⟩
  · rw [hs, if_neg (fun k => f (hfit.1 k))]; exact s.leaveQueue_ends e x _ hx
  · obtain ⟨v, h1, h2, h3, h4, h5⟩ := hb2 fun b y hy => by simp [c b y hy]
    have hm : e ∈ v.startedGather := by rw [h2]; simp
    have ha : v.actBarrier = v.actSetGeometry e { x with state := .held, watch := [], progress := 0 } := by
      unfold State.actBarrier; rw [h3]; simp only [hk]
    have hg : v.actSetGeometry e { x with state := .held, watch := [], progress := 0 }
        = ((v.applyGeometry x.record.position new).goDone e ⟨.ok, 0, none⟩).releaseTurn := by
      unfold State.actSetGeometry
      simp only [hz']
      rw [show Entry.position { x with state := .held, watch := [], progress := 0 } = x.record.position from hp]; rfl
    rw [hs, if_pos (hfit.2 f), h1, ha, hg]
    obtain ⟨hA, hF⟩ := v.applyGeometry_applies x.record.position new
    have hends := s.headEnds_release v e { x with watch := [], progress := 0 } ⟨.ok, 0, none⟩ ht h2 ⟨_, h4⟩ h5
    obtain ⟨entries, rfl⟩ : ∃ entries, v = { s with
        orders := { s.orders with entries := entries }
        gather := ⟨s.gather.queue.filter (· ≠ e), some ⟨e, .barrier, none, none, [], []⟩⟩
        startedGather := s.startedGather ++ [e] } := ⟨_, h2⟩
    generalize State.applyGeometry _ _ _ = w at hA hF ⊢
    have hwm : e ∈ w.startedGather := by rw [hF]; exact hm
    rw [State.goDone_waits w e _ hwm]
    refine ⟨_, hends, hA, ?_⟩
    · rw [State.goDone_waits _ e _ (by exact hm)]
      obtain ⟨gs, ds, cs, rfl⟩ : ∃ gs ds cs, w = { s with
        orders := { s.orders with entries := entries }
        gather := ⟨s.gather.queue.filter (· ≠ e), some ⟨e, .barrier, none, none, [], []⟩⟩
        startedGather := s.startedGather ++ [e]
        loader := { s.loader with geometry := gs }
        devices := ds, channels := cs } := ⟨_, _, _, hF⟩
      rfl
  · rw [hs, if_pos (hfit.2 f)]
    obtain ⟨b, y, hy, hd⟩ := c
    exact hb1 ⟨b, y, hy, by simp [hd]⟩

/-- R153, R154. -/
theorem State.startStoreProfile_starts (s : State) (e : EntryId) (x : Entry) (k : CopyId) (ht : s.gather.turn = none)
    (hx : s.entry? e = some x) (hk : x.kind = .storeProfile) (hz : s.loader.targets k) :
    s.StoreProfileStarts (s.startStoreProfile e) e x k := by
  have hz' : s.loader.target = k := by
    unfold Loader.targets at hz
    unfold Loader.target
    revert hz
    cases s.loader.copyA <;> cases s.loader.copyB <;> (intro hz; exact hz.symm)
  have hin : (fun y => s.inCopy k y) = s.holdsCopy k := by
    funext y
    unfold State.inCopy State.holdsCopy
    cases k <;> (simp [CopyId.address, CopyId.start, Nat.add_mul]; try rfl)
  let s' := s.mapEntry e fun x => { x with store := some ⟨k, 0⟩ }
  have hx' : s'.entry? e = some { x with store := some ⟨k, 0⟩ } := by
    show (s.mapEntry e _).entry? e = _; rw [State.entry_mapEntry, if_pos rfl, hx]; rfl
  have ho' : ∀ e', e' ≠ e → s'.entry? e' = s.entry? e' := by
    intro e' h; show (s.mapEntry e _).entry? e' = _; rw [State.entry_mapEntry, if_neg h]
  obtain ⟨hb1, hb2⟩ := s.startBarrier_starts s' e { x with store := some ⟨k, 0⟩ } .active (s.holdsCopy k) (fun _ => rfl) rfl hx' ho'
  have hs : s.startStoreProfile e = if s.zones.guard = true then (s.leaveQueue e).goDone e ⟨.protection, 0, none⟩
      else if s.loader.generation = 0xFFFFFFFF#32 then (s.leaveQueue e).goDone e ⟨.profileFull, 0, none⟩
      else s'.startBarrier e .active (s.holdsCopy k) := by
    unfold State.startStoreProfile
    rw [hz', hin]; rfl
  unfold State.StoreProfileStarts
  rw [hs]
  by_cases h1 : s.zones.guard = true
  · simp only [if_pos h1]; exact s.leaveQueue_ends e x _ hx
  simp only [if_neg h1]
  by_cases h2 : s.loader.generation = 0xFFFFFFFF#32
  · simp only [if_pos h2]; exact s.leaveQueue_ends e x _ hx
  simp only [if_neg h2]
  by_cases h3 : ∃ b, ∃ y, s.buffer? b = some y ∧ s.holdsCopy k y = true
  · rw [if_pos h3]; exact hb1 h3
  rw [if_neg h3]
  obtain ⟨v, q1, q2, q3, q4, q5⟩ := hb2 fun b y hy => by
    by_contra hp; exact h3 ⟨b, y, hy, by simpa using hp⟩
  have ha : v.actBarrier = v.actStoreProfile e := by
    unfold State.actBarrier; rw [q3]; simp only [hk]
  have hd : v.device 0 = s.device 0 := by rw [q2]; rfl
  have hm : e ∈ v.startedGather := by rw [q2]; simp
  rw [q1, ha]
  unfold State.actStoreProfile
  rw [hd]
  by_cases h4 : (s.device 0).state = .offline
  · simp only [if_pos h4]
    have := s.headEnds_release v e { x with store := some ⟨k, 0⟩, watch := [], progress := 0 } ⟨.deviceOffline, 0, none⟩ ht q2 ⟨_, q4⟩ q5
    rw [State.goDone_waits _ e _ (by exact hm)] at this ⊢
    exact this
  · simp only [if_neg h4]
    obtain ⟨entries, rfl⟩ : ∃ entries, v = { s with
      orders := { s.orders with entries := entries }
      gather := ⟨s.gather.queue.filter (· ≠ e), some ⟨e, .barrier, none, none, [], []⟩⟩
      startedGather := s.startedGather ++ [e] } := ⟨_, q2⟩
    refine ⟨rfl, ?_, fun e' h => ?_⟩
    · refine (State.entry_mapEntry _ e e _).trans ?_
      rw [if_pos rfl, q4]; rfl
    · refine (State.entry_mapEntry _ e e' _).trans ?_
      rw [if_neg h]; exact q5 e' h

/-- R78, R96: everything the start of the head order does. -/
theorem State.startHead_starts (s : State) (e : EntryId) (x : Entry) (ht : s.gather.turn = none) (hx : s.entry? e = some x) :
    s.HeadStarts (s.startHead e x) e x := by
  refine ⟨fun h => ?_, fun h => ?_, fun h => ?_, fun h new hz => ?_, fun h new hz => ?_, fun h k hz => ?_⟩ <;>
    simp only [State.startHead, h]
  · exact s.startMerging_starts e x _ hx (.inl h)
  · exact s.startMerging_starts e x _ hx (.inr h)
  · exact s.startFlush_starts e x ht hx h
  · exact s.startSetZone_starts e x new ht hx h hz
  · exact s.startSetGeometry_starts e x new ht hx h hz
  · exact s.startStoreProfile_starts e x k ht hx h hz

/-! ### The choice of a read -/

/-- R117: everything the start of a READ does. -/
theorem State.startRead_starts (s : State) (e : EntryId) (x : Entry) (hx : s.entry? e = some x) (hk : x.kind = .read) :
    s.ReadStarts (s.startRead e) e x := by
  have hp : x.position = x.record.position := by simp [Entry.position, hk]
  let u0 : State := { s.mapEntry e (fun x => { x with state := .active }) with
      reader := { s.reader with waiting := s.reader.waiting.filter (· ≠ e) }
      startedRead := s.startedRead ++ [e] }
  have hu0 : u0.entry? e = some { x with state := .active } := by
    show (s.mapEntry e _).entry? e = _
    rw [State.entry_mapEntry, if_pos rfl, hx]; rfl
  have ho : ∀ e', e' ≠ e → u0.entry? e' = s.entry? e' := by
    intro e' h
    show (s.mapEntry e _).entry? e' = _
    rw [State.entry_mapEntry, if_neg h]
  have hsr : s.startRead e = match s.readCheck x with
    | some st => u0.goDone e (.plain st 0)
    | none => u0.takeReadSpan e := by
    unfold State.startRead; rw [hx] <;> rfl
  have hg : ∀ r, u0.goDone e r = u0.mapEntry e _ := fun r => State.goDone_started u0 e r (by simp [u0])
  have fail : ∀ st, s.readCheck x = some st → ∃ v : State, v = { s with
      orders := { s.orders with entries := v.orders.entries }
      reader := { s.reader with waiting := s.reader.waiting.filter (· ≠ e) }
      startedRead := s.startedRead ++ [e] }
    ∧ (∀ e', e' ≠ e → v.entry? e' = s.entry? e')
    ∧ s.startRead e = v ∧ v.entry? e = some { x with state := .done, result := some ⟨st, 0, none⟩ } := by
    intro st hc
    rw [hsr, hc]; simp only []; rw [hg]
    refine ⟨_, rfl, fun e' h => ?_, rfl, ?_⟩
    · rw [State.entry_mapEntry, if_neg h]; exact ho e' h
    · rw [State.entry_mapEntry, if_pos rfl, hu0]; rfl
  have hrc : s.readCheck x = if (s.device x.record.position).state = .absent then some .noDevice
      else if (s.device x.record.position).state = .offline then some .deviceOffline
      else if s.pageSize x.record.position * s.pageCount x.record.position < x.record.address.toNat + x.record.length
      then some .badRange else none := by
    unfold State.readCheck; rw [hp]; rfl
  unfold State.ReadStarts
  by_cases h1 : (s.device x.record.position).state = .absent
  · obtain ⟨v, b, c, d⟩ := fail _ (by rw [hrc, if_pos h1])
    exact ⟨v, b, c, by simp only [h1, if_true]; exact d⟩
  by_cases h2 : (s.device x.record.position).state = .offline
  · obtain ⟨v, b, c, d⟩ := fail _ (by rw [hrc, if_neg h1, if_pos h2])
    exact ⟨v, b, c, by simp only [h2, reduceCtorEq, if_true, if_false]; exact d⟩
  by_cases h3 : s.pageSize x.record.position * s.pageCount x.record.position < x.record.address.toNat + x.record.length
  · obtain ⟨v, b, c, d⟩ := fail _ (by rw [hrc, if_neg h1, if_neg h2, if_pos h3])
    exact ⟨v, b, c, by simp only [h1, h2, h3, if_true, if_false]; exact d⟩
  have hn : s.readCheck x = none := by rw [hrc, if_neg h1, if_neg h2, if_neg h3]
  refine ⟨u0, rfl, ho, ?_⟩
  simp only [h1, h2, h3, if_false]
  refine ⟨hu0, ?_⟩
  rw [hsr, hn]
  exact State.takeReadSpan_takes u0 e _ hu0 hk

/-- R116: everything the resuming of a ready read does. -/
theorem State.resumeRead_resumes (s : State) (e : EntryId) (x : Entry) (hx : s.entry? e = some x) (hk : x.kind = .read) :
    s.ReadResumes (s.resumeRead e) e x := by
  let u0 : State := { s.mapEntry e (fun x => { x with state := .active }) with
      reader := { s.reader with ready := s.reader.ready.filter (· ≠ e) } }
  have hu0 : u0.entry? e = some { x with state := .active } := by
    show (s.mapEntry e _).entry? e = _
    rw [State.entry_mapEntry, if_pos rfl, hx]; rfl
  refine ⟨u0, rfl, hu0, fun e' h => ?_, State.takeReadSpan_takes u0 e _ hu0 hk⟩
  show (s.mapEntry e _).entry? e' = _
  rw [State.entry_mapEntry, if_neg h]

end Sys2Proof.Machine
end

