-- ==== Sys2Proof/Tests/Slice0.lean ====
section
/-! SUPPORT. Tests: one refused term for each check of WellFormed, words of order slots and of the setup block written out from the
spec's layouts, the spec's worked examples and tables on one command each, and for every statement a state that meets its
hypotheses. Expected values come from the spec file and section that the comment names. -/

-- One theorem at a time: every kernel evaluation in flight holds a thread of its own.
set_option Elab.async false

namespace Sys2Proof.Tests

open Sys2Proof Sys2Proof.Machine

/-! ### Well-formedness refuses -/

/-- A record with every field 0. -/
def blank : OrderRecord := ⟨0, 0, 0, 0, 0, 0, 0, 0, 0⟩

theorem test_wf_ignored_write : (Instr.registerWriteIgnored .control 0 0b1111#4).wellFormed = false := by decide
theorem test_wf_ignored_write_ok : (Instr.registerWriteIgnored .control 0 0b0111#4).wellFormed = true := by decide
theorem test_wf_retry : (Instr.masterBurstRetry 16).wellFormed = false := by decide
theorem test_wf_unknown_kind : (Instr.unknownKind 10 blank).wellFormed = false := by decide
theorem test_wf_write_data : (Instr.writeDataReadEnd (.complete (List.replicate 66 0))).wellFormed = false := by decide
theorem test_wf_fill_read : (Instr.fillReadEnd 0 (List.replicate 257 0)).wellFormed = false := by decide +kernel
theorem test_wf_verify_read : (Instr.verifyReadEnd 0 (List.replicate 257 0)).wellFormed = false := by decide +kernel
theorem test_wf_host_read : (Instr.hostReadFrameEnd 0 (List.replicate 257 0)).wellFormed = false := by decide +kernel
theorem test_wf_copy_a : (Instr.copyAReadEnd (List.replicate 255 0)).wellFormed = false := by decide +kernel
theorem test_wf_copy_b : (Instr.copyBReadEnd []).wellFormed = false := by decide

/-! ### Slots and the setup block, word by word (11.1, 11.3) -/

/-- WRITE (02h), tag 1234h, flags DURABLE (01h), device 1, length 40 (less 1: 0027h), address 100, buffer 8000h. -/
theorem test_slot_write : decodeSlot #v[0x01021234#32, 0x00270001#32, 0x00000064#32, 0x00008000#32, 0, 0, 0, 0]
    = .write { blank with tag := 0x1234, flags := 1, device := 1, lengthLess1 := 39, address := 100, buffer := 0x8000 } := by decide

/-- FILL (03h), pattern A5h in byte 5. -/
theorem test_slot_fill : decodeSlot #v[0x00030007#32, 0x000FA502#32, 0x00000010#32, 0, 0, 0, 0, 0]
    = .fill { blank with tag := 7, device := 2, selector := 0xA5, lengthLess1 := 15, address := 16 } := by decide

/-- CANCEL (05h), the urgent ring in byte 5, tag 0042h in bytes 16 and 17. -/
theorem test_slot_cancel : decodeSlot #v[0x00050001#32, 0x00000100#32, 0, 0, 0x00000042#32, 0, 0, 0]
    = .cancel { blank with tag := 1, selector := 1, payload := 0x42 } := by decide

/-- SET_ZONE (06h), index 4, entry valid, device 1, pages 20 to 29, OPEN (7.10). -/
theorem test_slot_zone : decodeSlot #v[0x00060001#32, 0x00000400#32, 0, 0, 0x00140101#32, 0x0000001D#32, 0, 0]
    = .setZone { blank with tag := 1, selector := 4, payload := 0x0000001D00140101 } := by decide

/-- That zone entry, read. -/
theorem test_zone_entry : ({ blank with payload := 0x0000001D00140101 } : OrderRecord).zone = some (some ⟨1, 20, 29, .openZone⟩) := by
  decide

/-- A geometry entry: present, code 3 (128 bytes), 200 pages (less 1: 00C7h), width 2, cycle timeout 20 (7.9, 11.1). -/
theorem test_geometry_entry : ({ blank with payload := 0x0000140200C70301 } : OrderRecord).geometry
    = some (some ⟨.b128, 200, .two, 20⟩) := by decide

/-- Kind code 11 names no kind. -/
theorem test_slot_unknown : decodeSlot #v[0x000B0001#32, 0, 0, 0, 0, 0, 0, 0] = .unknownKind 11 { blank with tag := 1 } := by decide

/-- Rings at 1000h, 2000h, 3000h with 8, 16 and 32 slots, threshold 4, linger time 50. -/
theorem test_setup_words : SetupBlock.ofWords #v[0x1000#32, 0x2000#32, 0x3000#32, 0x00100008#32, 0x32040020#32, 0, 0, 0]
    = ⟨0x1000, 0x2000, 0x3000, 8, 16, 32, 4, 50, 0⟩ := by decide

/-- A completion ring of 8 slots is below the least size. -/
theorem test_setup_bad_size : (⟨0x1000, 0x2000, 0x3000, 8, 16, 8, 4, 50, 0⟩ : SetupBlock).good = false := by decide

/-- 11.4: bit 31 of a CONTROL write is LOCAL_RESET and comes before RUN; with all four bytes enabled a write of IDENT is ignored. -/
theorem test_register_writes :
    registerWrite true .control 0x80000007 0b1111 = .localReset true true true
    ∧ registerWrite true .control 0x7FFFFFFD 0b1111 = .runSet false true
    ∧ registerWrite true .control 0x00000002 0b0111 = .registerWriteIgnored .control 2 0b0111
    ∧ registerWrite true .ident 7 0b1111 = .registerWriteIgnored .ident 7 0b1111 := by decide

/-- The table gives no bits. -/
theorem test_table_word : decodeTableWord 32 0 = none := rfl

/-! ### Numbers the spec works out -/

/-- R145: the CRC of the nine characters "123456789" is 29B1h. -/
theorem test_crc : crc16 [0x31, 0x32, 0x33, 0x34, 0x35, 0x36, 0x37, 0x38, 0x39] = 0x29B1#16 := by decide +kernel

/-- 11.7: 40 bytes at 100 with 32-byte pages: 28 bytes, then 12; 28 bytes at an aligned host address are 7 words. -/
theorem test_spans : spanFrom 32 100 40 = ⟨100, 28⟩ ∧ spanFrom 32 128 12 = ⟨128, 12⟩ ∧ wordCount 0x8000 28 = 7 := by decide

/-- R157: a word at 103Ch, the last of its 64 bytes, ends a burst; 32 words at 1000h begin with 16. -/
theorem test_bursts : burstWords 0x103C 5 = 1 ∧ burstWords 0x1000 32 = 16 := by decide

/-- R157: three bytes at an address of 2 mod 4: two words, with the byte enables of bytes 2 and 3, then of byte 0. -/
theorem test_byte_enables : wordsAt 0x8002 [0x11, 0x22, 0x33] = [(0x22110000#32, 0b1100#4), (0x33#32, 0b0001#4)] := by decide

/-! ### States -/

/-- An IDLE device. -/
def idle : DeviceRecord := { DeviceRecord.reset with state := .idle }

/-- A configuration: 8, 8 and 16 slots, threshold 4. -/
def rings : RingConfig := ⟨⟨0x1000, 8⟩, ⟨0x2000, 8⟩, ⟨0x3000, 16⟩, 4⟩

/-- A released, RUNNING, configured part: devices 0 and 1 on channel 0 and 5 on channel 1 are IDLE, with 64-byte pages, 1024 of them. -/
def live : State := { State.reset with
  pins := ⟨false, false, false, false⟩
  host := { HostPort.reset with part := .running, run := true }
  fetch := { RingFetch.reset with config := some rings }
  devices := #v[idle, idle, .reset, .reset, .reset, idle, .reset, .reset]
  pool := { Pool.reset with linger := 30, sequence := 20 }
  orders := { OrderTable.reset with sequence := 5 }
  loader := { Loader.reset with
    geometry := (((Vector.replicate 8 none).set 0 (some ⟨.b64, 1024, .two, 20⟩)).set 1 (some ⟨.b64, 1024, .two, 20⟩)).set 5
      (some ⟨.b64, 1024, .two, 20⟩) } }

/-- A WRITE record: 40 bytes at 2000 of device 1 from host memory at 8000h. -/
def wr : OrderRecord := { blank with tag := 9, device := 1, lengthLess1 := 39, address := 2000, buffer := 0x8000 }

/-- An order with number 4. -/
def order (k : Kind) (r : OrderRecord) (st : OrderState) : Entry := ⟨.normal, 3, k, r, some 4, st, 0, 0, none, [], none, none⟩

/-- With an order in an entry. -/
def withEntry (e : EntryId) (x : Entry) (s : State) : State :=
  { s with orders := { s.orders with entries := s.orders.entries.set e (some x) } }

/-- With a buffer in a record. -/
def withBuffer (b : BufferId) (y : Buffer) (s : State) : State :=
  { s with pool := { s.pool with buffers := s.pool.buffers.set b (some y) } }

/-- With a device record. -/
def withDevice (d : DevicePos) (r : DeviceRecord) (s : State) : State := { s with devices := s.devices.set d r }

/-- With a frame in progress. -/
def withFrame (c : ChannelId) (d : DevicePos) (content : FrameContent) (s : State) : State :=
  s.mapChannel c fun ch => { ch with frame := some ⟨d, content, .two, false⟩ }

/-- With a transfer on the bus. -/
def withBus (t : Transfer) (s : State) : State := { s with host := { s.host with engine := some t } }

/-- A transfer of one word, just granted. -/
def oneWord (j : Job) : Transfer := ⟨j, false, 0x8000, 1, [], 0, 0, 0⟩

/-- A fetch of normal slot 0 is on the bus. -/
def fetching : State := withBus ⟨.orderFetch .normal 0, false, 0x1000, 8, [], 0, 0, 0⟩ live

/-- Order 0 of this kind alone in the gather queue. -/
def queued (k : Kind) (r : OrderRecord) : State :=
  { withEntry 0 (order k r .waiting) live with gather := ⟨[0], none⟩ }

/-- Order 0, a barrier of this kind with nothing left to wait for, at its turn. -/
def atBarrier (k : Kind) (r : OrderRecord) (st : OrderState) : State :=
  { withEntry 0 { order k r st with store := some ⟨.b, 0⟩ } live with gather := ⟨[], some ⟨0, .barrier, none, none, [], []⟩⟩ }

/-- A posted buffer of page 31 of device 1 with bytes 2 and 3 valid. -/
def gathered : Buffer :=
  ⟨.gathering, 1, 31, 19, [none, none, some 0xAA, some 0xBB] ++ List.replicate 60 none, [], true, false, 0, some 30, none⟩

/-- The state after a command. -/
def after (c : Instr) (s : State) : State :=
  match exec c s with
  | .next t => t
  | _ => s

/-! ### One step of a command (the number is the rule) -/

/-- What an order of an entry ended with. -/
def ended (e : EntryId) (s : State) : Option (Status × Nat) := (s.entry? e).bind fun x => x.result.map fun r => (r.status, r.count.toNat)

theorem test_step_front : ∃ t, step { live with pending := [.grdChange true, .loadEnd] } = .next t
    ∧ t.pending = [.loadEnd] ∧ t.zones.guard = true := ⟨_, rfl, by decide +kernel⟩

/-- R164: after power-on the part answers no read; R186: IDENT reads B7412001h once HRST is released. -/
theorem test_ident : State.reset.readRegister .ident = none ∧ live.readRegister .ident = some 0xB7412001#32 := by decide

/-- R186: STATE of a RUNNING part with 16 free records and an empty table: code 3, free count in bits 24 to 28. -/
theorem test_state_register : live.readRegister .state = some 0x10000003#32 := by decide +kernel

theorem test_link_reset : (after .linkReset live).host.part = .loading ∧ (after .linkReset live).pins.hrst = true := by decide +kernel

/-- R147, R31: BW high gives 3 address bytes; device 0 wakes with a limit of 255 ms and its ask goes out. -/
theorem test_hrst_release :
    let t := after (.hrstRelease true) State.reset
    t.loader.bootWidth = .three ∧ (t.device 0).wakeLimit = some 255
      ∧ (t.channel 0).frame = some ⟨0, .ask .wake, .three, false⟩ := by decide +kernel

theorem test_grd_change : (after (.grdChange true) live).readRegister .state = some 0x10000013#32 := by decide +kernel

/-- R166: STOPPED and unconfigured, RUN asks for the setup block; the idle engine reads 8 words at SETUP_ADDR. -/
theorem test_run_set_sets_up :
    let s : State := { live with host := { HostPort.reset with part := .stopped, setupAddr := 0x4000 }, fetch := .reset }
    let t := after (.runSet true false) s
    t.host.part = .settingUp ∧ t.host.engine = some ⟨.setupRead, false, 0x4000, 8, [], 0, 0, 0⟩ := by decide +kernel

/-- R167: DRAINING goes back to RUNNING. -/
theorem test_run_set_draining :
    (after (.runSet false false) { live with host := { HostPort.reset with part := .draining } }).host.part = .running := by
  decide +kernel

/-- R16, R51: a hole-free buffer of an IDLE device closes, is taken, and its program start goes out in the same event. -/
theorem test_run_clear :
    let t := after (.runClear false false) (withBuffer 4 gathered live)
    t.host.part = .draining ∧ (t.buffer? 4).map (·.state) = some .programming
      ∧ (t.channel 0).frame = some ⟨1, .programStart 4 1986 [0xAA, 0xBB], .two, false⟩ := by decide +kernel

/-- R174, 9.7: one record unacknowledged and an empty table assert the line below the threshold. -/
theorem test_int_enable : (after (.intEnable true) { live with poster := ⟨4, 3, 41⟩ }).pins.intreq = true := by decide +kernel

theorem test_fault_int_enable :
    (after (.faultIntEnable true) { live with host := { live.host with fault := 8 } }).pins.intreq = true := by decide +kernel

/-- R163: both enables as written, SETUP_ADDR kept, FAULT cleared. -/
theorem test_local_reset :
    let t := after (.localReset true false false) { live with host := { live.host with setupAddr := 0x40, fault := 1 } }
    t.host.part = .loading ∧ t.host.intEnable = true ∧ t.host.setupAddr = 0x40 ∧ t.host.fault = 0 := by decide +kernel

theorem test_local_reset_waits :
    let t := after (.localReset true true false) fetching
    t.host.part = .running ∧ t.host.resetPending = true ∧ t.host.engine = fetching.host.engine := by decide +kernel

theorem test_local_reset_at_burst_end :
    let t := after (.localResetAtBurstEnd true) { fetching with host := { fetching.host with resetPending := true } }
    t.host.part = .loading ∧ t.host.engine = none ∧ t.loader.bootWidth = .three := by decide +kernel

/-- R162: the six low bits are dropped. -/
theorem test_setup_addr :
    (after (.setupAddrWrite 0x1234567F) { live with host := { HostPort.reset with part := .stopped }, fetch := .reset }).host.setupAddr
      = 0x12345640 := by decide +kernel

/-- R169: a value of the ring's size sets BAD_INDEX (bit 3). -/
theorem test_ntail_too_large : (after (.ntailWrite 8) live).host.fault = 0b1000 := by decide +kernel

/-- R170: a taken tail write begins a fetch of 8 words at slot 0. -/
theorem test_ntail_fetches :
    (after (.ntailWrite 2) live).host.engine = some ⟨.orderFetch .normal 0, false, 0x1000, 8, [], 0, 0, 0⟩ := by decide +kernel

/-- 9.6, fetches 4 and 5: at a count of 3 the urgent ring goes first, at 4 the normal ring does. -/
theorem test_utail_shares :
    let s (n : Nat) : State := { live with fetch := { live.fetch with normalTail := 2, urgentRun := n } }
    (after (.utailWrite 2) (s 3)).fetch.urgentRun = 4 ∧ (after (.utailWrite 2) (s 4)).fetch.urgentRun = 0
      ∧ (after (.utailWrite 2) (s 4)).host.engine.map (·.job) = some (.orderFetch .normal 0) := by decide +kernel

/-- 9.7, event 4: with tail and CHEAD at 6, a write of 7 is ignored with BAD_INDEX. -/
theorem test_chead_refused :
    let t := after (.cheadWrite 7) { live with poster := ⟨6, 6, 43⟩ }
    t.poster.head = 6 ∧ t.host.fault = 0b1000 := by decide +kernel

/-- 9.7, at the end: with the tail at 2 and CHEAD at 3, a write of 10 leaves 8 unacknowledged. -/
theorem test_chead_taken :
    let t := after (.cheadWrite 10) { live with poster := ⟨2, 3, 55⟩ }
    t.poster.head = 10 ∧ t.unacknowledged = 8 := by decide +kernel

/-- R176: flags written as 1 are cleared. -/
theorem test_fault_write : (after (.faultWrite 0x9) { live with host := { live.host with fault := 0b11001 } }).host.fault = 0b10000 := by
  decide +kernel

theorem test_write_ignored : after (.registerWriteIgnored .state 0xFFFFFFFF 0b1111#4) live = live := by decide +kernel

/-- R157: a report store at 8000h goes on with its second 16 words. -/
theorem test_burst_complete :
    (after .masterBurstComplete (withBus ⟨.readData 0, false, 0x8000, 32, [], 0, 5, 3⟩ live)).host.engine
      = some ⟨.readData 0, false, 0x8000, 32, [], 16, 0, 0⟩ := by decide +kernel

/-- R158: a word taken sets the retry count back; the 64th RETRY in a row ends the fetch in a host fault. -/
theorem test_burst_retry :
    (after (.masterBurstRetry 1) (withBus ⟨.orderFetch .normal 0, false, 0x1000, 8, [], 0, 2, 9⟩ live)).host.engine
      = some ⟨.orderFetch .normal 0, false, 0x1000, 8, [], 0, 3, 0⟩
    ∧ (after (.masterBurstRetry 0) (withBus ⟨.orderFetch .normal 0, false, 0x1000, 8, [], 0, 2, 63⟩ live)).host.part = .halted := by
  decide +kernel

/-- SETTING_UP with the setup block read on the bus. -/
def settingUp : State :=
  { live with fetch := .reset
              host := { HostPort.reset with part := .settingUp, run := true
                                            engine := some ⟨.setupRead, false, 0x4000, 8, [], 0, 0, 0⟩ } }

theorem test_setup_good :
    let t := after (.setupBlockReadEnd (.complete ⟨0x1000, 0x2000, 0x3000, 8, 16, 32, 4, 50, 0⟩)) settingUp
    t.host.part = .running ∧ t.pool.linger = 50 ∧ t.fetch.config.map (·.completion) = some ⟨0x3000, 32⟩ := by decide +kernel

/-- R166: a base of 1020h is no multiple of 64: BAD_SETUP (bit 4), RUN cleared. -/
theorem test_setup_bad :
    let t := after (.setupBlockReadEnd (.complete ⟨0x1020, 0x2000, 0x3000, 8, 16, 32, 4, 50, 0⟩)) settingUp
    t.host.part = .stopped ∧ t.host.run = false ∧ t.host.fault = 0b10000 ∧ t.fetch.config = none := by decide +kernel

theorem test_fetch_fault :
    let t := after (.orderFetchHostFault .check) fetching
    t.host.part = .halted ∧ t.host.fault = 0b10 ∧ t.fetch.normalHead = 0 := by decide +kernel

/-- R99: an accepted WRITE starts at once and asks for its 10 words. -/
theorem test_write :
    let t := after (.write wr) fetching
    t.orders.sequence = 6 ∧ t.fetch.normalHead = 1 ∧ t.host.engine = some ⟨.writeData 0, false, 0x8000, 10, [], 0, 0, 0⟩ := by
  decide +kernel

/-- R73: a buffer address that is no multiple of 4. -/
theorem test_write_refused :
    let t := after (.write { wr with buffer := 0x8002 }) fetching
    ended 0 t = some (.badOrder, 0) ∧ t.orders.sequence = 5 := by decide +kernel

/-- 11.7, event 4: a READ of bytes that a buffer holds needs no frame; one of others asks the device. -/
theorem test_read :
    let r := { blank with device := 1, lengthLess1 := 1, address := 1986, buffer := 0x9000 }
    ((after (.read r) (withBuffer 4 gathered fetching)).host.engine.map (·.out)) = some [(0xBBAA#32, 0b0011#4)]
      ∧ ((after (.read r) fetching).channel 0).frame = some ⟨1, .stream (.hostRead 0) 1986 2, .two, false⟩ := by decide +kernel

/-- R97, R100: a posted FILL merges without the bus: record 0 takes sequence 20, and the order ends OK with its length. -/
theorem test_fill :
    let t := after (.fill { wr with selector := 0xA5 }) fetching
    ended 0 t = some (.ok, 40) ∧ t.pool.sequence = 21 ∧ (t.buffer? 0).map (·.sequence) = some 20
      ∧ ((t.buffer? 0).bind fun y => y.image[16]?) = some (some 0xA5) := by decide +kernel

theorem test_flush : ended 0 (after (.flush { blank with device := 15 }) fetching) = some (.ok, 0) := by decide +kernel

theorem test_set_zone :
    (after (.setZone { blank with selector := 4, payload := 0x0000001D00140101 }) fetching).zones.entries[(4 : ZoneIndex)]
      = some ⟨1, 20, 29, .openZone⟩ := by decide +kernel

/-- R40: a position made present wakes. -/
theorem test_set_geometry :
    let t := after (.setGeometry { blank with device := 6, payload := 0x0000140200C70301 }) fetching
    ended 0 t = some (.ok, 0) ∧ (t.device 6).state = .waking ∧ (t.device 6).wakeLimit = some 20 := by decide +kernel

/-- R153: the guard line refuses a STORE_PROFILE. -/
theorem test_store_profile :
    ended 0 (after (.storeProfile blank) { fetching with zones := { fetching.zones with guard := true } }) = some (.protection, 0) := by
  decide +kernel

/-- R86: one waiting order of normal tag 9 is removed. -/
theorem test_cancel :
    let s := { withEntry 3 (order .read wr .waiting) fetching with reader := { ReadEngine.reset with waiting := [3], active := some ⟨9, ⟨0, 0⟩, [], false⟩ } }
    let t := after (.cancel { blank with payload := 9 }) s
    ended 3 t = some (.cancelled, 0) ∧ ended 0 t = some (.ok, 1) ∧ t.orders.done = [3, 0] := by decide +kernel

theorem test_revive :
    ended 0 (after (.revive { blank with device := 1 }) fetching) = some (.ok, 0)
    ∧ ended 0 (after (.revive { blank with device := 2 }) fetching) = some (.noDevice, 0) := by decide +kernel

/-- R89, R182: 32 words to the buffer. -/
theorem test_report :
    (after (.report { blank with buffer := 0x8000 }) fetching).host.engine.map (fun t => (t.job, t.words)) = some (.reportStore 0, 32) := by
  decide +kernel

theorem test_unknown_kind : ended 0 (after (.unknownKind 11 blank) fetching) = some (.badOrder, 0) := by decide +kernel

/-- 9.7, event 1: the record of slot 3 is written, with serial 41 next; its entry is free. -/
def posting : State :=
  withEntry 2 { order .fill wr .done with result := some ⟨.ok, 40, none⟩ }
    { withBus ⟨.completionWrite 2, false, 0x3030, 4, [], 0, 0, 0⟩ live with
      poster := ⟨3, 3, 40⟩
      orders := { OrderTable.reset with sequence := 5, done := [2] } }

theorem test_completion_written :
    let t := after (.completionWriteEnd .complete) posting
    t.poster = ⟨4, 3, 41⟩ ∧ t.entry? 2 = none ∧ t.orders.done = [] := by decide +kernel

theorem test_completion_fault :
    let t := after (.completionWriteEnd (.hostFault .abort)) posting
    t.host.part = .halted ∧ t.host.fault = 0b100 ∧ t.orders.done = [2] ∧ t.poster.tail = 3 := by decide +kernel

/-- The bytes of that record: serial 41, tag 9, slot 3 of the normal ring, FILL, OK, no failure, count 40. -/
theorem test_completion_bytes :
    completionBytes 41 (order .fill wr .done) ⟨.ok, 40, none⟩
      = [41, 0, 9, 0, 3, 0, 3, 0, 0xFF, 0, 0, 0, 40, 0, 0, 0] := by decide +kernel

/-- A WRITE of 2 bytes at 1984 at its turn, its data read on the bus. -/
def writing : State :=
  { withEntry 0 (order .write { wr with lengthLess1 := 1, address := 1984 } .active) (withBus (oneWord (.writeData 0)) live) with
    gather := ⟨[], some ⟨0, .hostData, some ⟨1984, 2⟩, none, [], []⟩⟩ }

theorem test_write_data :
    let t := after (.writeDataReadEnd (.complete [0x44332211#32])) writing
    ended 0 t = some (.ok, 2) ∧ ((t.buffer? 0).map fun y => y.image.take 3) = some [some 0x11, some 0x22, none] := by decide +kernel

theorem test_write_data_fault :
    ended 0 (after (.writeDataReadEnd (.hostFault .abort)) writing) = some (.hostFault, 0) := by decide +kernel

/-- A READ of 2 bytes at 1986 whose only span is being delivered. -/
def delivering : State :=
  { withEntry 0 (order .read { wr with lengthLess1 := 1, address := 1986 } .delivering) (withBus (oneWord (.readData 0)) live) with
    reader := { ReadEngine.reset with active := some ⟨0, ⟨1986, 2⟩, [.fromBuffer 1, .fromBuffer 2], true⟩ } }

theorem test_read_data : ended 0 (after (.readDataStoreEnd .complete) delivering) = some (.ok, 2) := by decide +kernel

/-- 6.11, event 6: a READ of 40 bytes whose second span, of 12 bytes, has been delivered: progress 40. -/
theorem test_read_progress :
    let s : State := { withEntry 0 { order .read wr .delivering with progress := 28 } delivering with
      reader := { ReadEngine.reset with active := some ⟨0, ⟨2028, 12⟩, List.replicate 12 (.fromBuffer 1), true⟩ } }
    ((after (.readDataStoreEnd .complete) s).entry? 0).map (·.progress) = some 40 := by decide +kernel

theorem test_read_data_fault : ended 0 (after (.readDataStoreEnd (.hostFault .check)) delivering) = some (.hostFault, 0) := by
  decide +kernel

theorem test_report_store :
    ended 0 (after (.reportStoreEnd .complete) (withEntry 0 (order .report blank .active) (withBus (oneWord (.reportStore 0)) live)))
      = some (.ok, 128) := by decide +kernel

/-- R97, in its order: no device, out of range, reserved. -/
theorem test_write_start :
    ended 0 (after .writeStart (queued .write { wr with device := 2 })) = some (.noDevice, 0)
    ∧ ended 0 (after .writeStart (queued .write { wr with address := 65530 })) = some (.badRange, 0)
    ∧ ended 0 (after .writeStart (queued .write { wr with device := 0, address := 1023 })) = some (.reservedArea, 0) := by
  decide +kernel

/-- 7.9: GUARDED 0 to 99, LOCKED 50 to 59, OPEN 40 to 69, on pages 10, 55 and 120 (here of device 1). -/
theorem test_zones_overlap :
    let zs : Vector (Option Zone) 16 := (((Vector.replicate 16 none).set 0 (some ⟨1, 0, 99, .guardedZone⟩)).set 1
      (some ⟨1, 50, 59, .lockedZone⟩)).set 2 (some ⟨1, 40, 69, .openZone⟩)
    let s (g : Bool) : State := { live with zones := ⟨zs, g⟩ }
    [10, 45, 55, 65, 120].map ((s false).pageLocked 1) = [false, false, true, false, false]
    ∧ [10, 45, 55, 65, 120].map ((s true).pageLocked 1) = [true, true, true, true, false] := by decide +kernel

theorem test_fill_start : ended 0 (after .fillStart (queued .fill wr)) = some (.ok, 40) := by decide +kernel

/-- R82: an earlier WRITE of the same bytes that waits holds the READ back. -/
theorem test_read_start_held :
    let s := { withEntry 1 { order .read wr .waiting with sequence := some 4 }
        { withEntry 0 { order .write wr .active with sequence := some 3 } live with gather := ⟨[], some ⟨0, .hostData, some ⟨2000, 40⟩, none, [], []⟩⟩ } with
      reader := { ReadEngine.reset with waiting := [1] } }
    after .readStart s = s := by decide +kernel

theorem test_read_start_offline :
    ended 0 (after .readStart (withDevice 1 { idle with state := .offline }
      { withEntry 0 (order .read wr .waiting) live with reader := { ReadEngine.reset with waiting := [0] } })) = some (.deviceOffline, 0) := by
  decide +kernel

/-- 11.9, event 5: a ready READ that finds its device CYCLING parks again. -/
theorem test_read_resume :
    let t := after .readResume (withDevice 1 { idle with state := .cycling }
      { withEntry 0 (order .read wr .parked) live with reader := { ReadEngine.reset with ready := [0] } })
    t.reader.deferred[(1 : DevicePos)] = [0] ∧ (t.entry? 0).map (·.state) = some .parked := by decide +kernel

/-- R107: a FLUSH watches the buffer of its device, here in programming. -/
theorem test_flush_start :
    let t := after .flushStart (withBuffer 7 { gathered with state := .programming } (queued .flush { blank with device := 1 }))
    (t.entry? 0).map (fun x => (x.state, x.watch, x.progress)) = some (.held, [7], 1) := by decide +kernel

/-- 7.10, event 1: the buffer of page 31 is concerned. -/
theorem test_set_zone_start :
    let t := after .setZoneStart (withBuffer 7 { gathered with state := .programming }
      (queued .setZone { blank with payload := 0x0000001F00140101 }))
    (t.entry? 0).map (fun x => (x.state, x.watch)) = some (.held, [7]) := by decide +kernel

/-- R151: device 0 cannot be made absent. -/
theorem test_set_geometry_start : ended 0 (after .setGeometryStart (queued .setGeometry blank)) = some (.badOrder, 0) := by decide +kernel

/-- 8.6: the target copies of the first three stores. -/
theorem test_store_targets :
    ({ Loader.reset with copyA := some 7, copyB := some 6 } : Loader).target = .b
    ∧ ({ Loader.reset with copyA := some 7, copyB := some 8 } : Loader).target = .a
    ∧ ({ Loader.reset with copyA := none, copyB := some 8 } : Loader).target = .a := by decide

theorem test_store_profile_start :
    ended 0 (after .storeProfileStart { queued .storeProfile blank with
      loader := { live.loader with generation := 0xFFFFFFFF } }) = some (.profileFull, 0) := by decide +kernel

/-- 1.13, event 2: the request takes a FREE record; the counter goes from 40 to 41; the posted WRITE ends with count 16. -/
def requesting : State :=
  { withEntry 0 (order .write { wr with lengthLess1 := 15, address := 768 } .active) live with
    pool := { Pool.reset with sequence := 40, linger := 50, request := some ⟨1, 12, true⟩ }
    gather := ⟨[], some ⟨0, .hostData, some ⟨768, 16⟩, some (List.replicate 16 7), [], []⟩⟩ }

theorem test_allocation :
    let t := after .allocationRequestServed requesting
    (t.buffer? 0).map (fun y => (y.page, y.sequence, y.linger, y.state)) = some (12, 40, some 50, .gathering)
      ∧ t.pool.sequence = 41 ∧ ended 0 t = some (.ok, 16) := by decide +kernel

/-- 11.7, event 7: closed, taken at once, no holes: PROGRAMMING. -/
theorem test_linger : ((after (.lingerExpiry 4) (withBuffer 4 gathered live)).buffer? 4).map (·.state) = some .programming := by
  decide +kernel

/-- R49: the look comes after the other work of the event: a READ takes its bytes from the buffer before its take ends it PROTECTED. -/
theorem test_look_comes_last :
    let r : OrderRecord := { wr with lengthLess1 := 1, address := 1986 }
    let s : State := { withEntry 0 (order .read r .waiting) (withBuffer 4 gathered live) with
      reader := { ReadEngine.reset with waiting := [0] }
      zones := ⟨(Vector.replicate 16 none).set 0 (some ⟨1, 31, 31, .lockedZone⟩), false⟩ }
    let t := after (.lingerExpiry 4) s
    t.pool.failures = [⟨1, 31, .protection⟩] ∧ t.host.engine.map (·.out) = some [(0x0000BBAA#32, 0b0011#4)] := by decide +kernel

/-- A program start of buffer 4 of device 1, or what follows it, is on the wires. -/
def programming (content : FrameContent) (r : DeviceRecord) (y : Buffer) : State :=
  withFrame 0 1 content (withDevice 1 { r with slot := some 4 } (withBuffer 4 y live))

/-- A buffer in its first attempt. -/
def attempted : Buffer := { gathered with state := .programming, attempts := 1, linger := none }

theorem test_page_load_end :
    let t := after (.pageLoadEnd 0) (programming (.programStart 4 1986 [0xAA, 0xBB]) idle attempted)
    (t.device 1).cycleTimer = some 20 ∧ (t.channel 0).frame = some ⟨1, .ask .confirming, .two, false⟩ := by decide +kernel

/-- R34: A8h is a good answer with BUSY, A0h one without; 00h is a no-answer. -/
theorem test_confirming_ask :
    let s := programming (.ask .confirming) { idle with confirming := true, cycleTimer := some 20 } attempted
    ((after (.confirmingAskEnd 0 0xA8) s).device 1).state = .cycling
      ∧ ((after (.confirmingAskEnd 0 0xA0) s).device 1).failedAttempts = 1
      ∧ ((after (.confirmingAskEnd 0 0x00) s).device 1).noAnswer = 1 := by decide +kernel

/-- R56: A0h ends the cycle good, A2h (CYCLE_FAULT) bad. -/
theorem test_poll :
    let s := programming (.ask .poll) { idle with state := .cycling, cycleTimer := some 20 } attempted
    (after (.pollEnd 0 0xA0) s).buffer? 4 = none ∧ ((after (.pollEnd 0 0xA0) s).device 1).pagesProgrammed = 1
      ∧ ((after (.pollEnd 0 0xA2) s).buffer? 4).map (·.cause) = some (some .deviceFlag) := by decide +kernel

/-- R60, R20: the third failed attempt ends a posted buffer in the failure list. -/
theorem test_third_failure :
    (after (.pollEnd 0 0xA2) (programming (.ask .poll) { idle with state := .cycling } { attempted with attempts := 3 })).pool.failures
      = [⟨1, 31, .deviceFlag⟩] := by decide +kernel

theorem test_wake_ask :
    ((after (.wakeAskEnd 0 0xA2) (withFrame 0 1 (.ask .wake) (withDevice 1 { idle with state := .waking } live))).device 1).state
      = .idle := by decide +kernel

theorem test_revive_ask :
    let s := withEntry 0 (order .revive { blank with device := 1 } .active)
      (withFrame 0 1 (.ask (.revive 0)) (withDevice 1 { idle with state := .offline } live))
    ended 0 (after (.reviveAskEnd 0 0xA0) s) = some (.ok, 0) ∧ ended 0 (after (.reviveAskEnd 0 0xA8) s) = some (.deviceOffline, 0) := by
  decide +kernel

/-- R53: the hole of a span takes the device's byte; bytes gathered stay. -/
def holed : Buffer :=
  { attempted with state := .filling, attempts := 0, image := [some 1, none, some 3] ++ List.replicate 61 none }

theorem test_fill_read :
    ((after (.fillReadEnd 0 [0x77, 0x88, 0x99]) (programming (.stream (.fillRead 4) 1984 3) idle holed)).channel 0).frame
      = some ⟨1, .programStart 4 1984 [1, 0x88, 3], .two, false⟩ := by decide +kernel

theorem test_verify_read :
    let s := programming (.stream (.verifyRead 4) 1986 2) idle { attempted with state := .verifying, verify := true }
    ((after (.verifyReadEnd 0 [0xAA, 0xBB]) s).device 1).pagesProgrammed = 1
      ∧ ((after (.verifyReadEnd 0 [0xAA, 0xBC]) s).buffer? 4).map (·.cause) = some (some .verify) := by decide +kernel

/-- A READ of 4 bytes at 1984 waits for its frame. -/
def reading : State :=
  withFrame 0 1 (.stream (.hostRead 0) 1984 4)
    { withEntry 0 (order .read { wr with lengthLess1 := 3, address := 1984 } .active) live with
      reader := { ReadEngine.reset with active := some ⟨0, ⟨1984, 4⟩, [.needed, .needed, .needed, .needed], false⟩ } }

/-- R122: the gathered bytes 2 and 3 are laid over the device's. -/
theorem test_host_read :
    (after (.hostReadFrameEnd 0 [0x11, 0x22, 0x33, 0x44]) (withBuffer 4 gathered reading)).host.engine.map (·.out)
      = some [(0xBBAA2211#32, 0b1111#4)] := by decide +kernel

/-- A load that reads a copy of the profile. -/
def copying (k : CopyId) : State :=
  withFrame 0 0 (.stream (.copyRead k) (if k = .a then 0 else 512) 256)
    { live with host := { HostPort.reset with part := .loading }, fetch := .reset
                devices := (Vector.replicate 8 DeviceRecord.reset).set 0 idle
                loader := { Loader.reset with
                  geometry := (Vector.replicate 8 none).set 0 (some ⟨.b16, 64, .two, 255⟩), phase := some .readA } }

/-- A profile: generation 7, devices 0 and 1. -/
def profile : List Byte := profileBytes 7 live.loader.geometry (Vector.replicate 16 none)

set_option maxRecDepth 100000 in
theorem test_copy_a :
    let t := after (.copyAReadEnd profile) (copying .a)
    t.loader.copyA = some 7 ∧ (t.channel 0).frame = some ⟨0, .stream (.copyRead .b) 512 256, .two, false⟩ := by decide +kernel

/-- R149: neither copy valid: PROFILE_NONE (bit 5) and the default geometry of 64 pages of 16 bytes with 20 ms; the load ends. -/
theorem test_copy_b_none :
    let t := after (.copyBReadEnd (List.replicate 256 0xFF)) (copying .b)
    t.host.fault = 0b100000 ∧ t.loader.geometry[(0 : DevicePos)] = some ⟨.b16, 64, .two, 20⟩ ∧ t.host.part = .stopped := by
  decide +kernel

set_option maxRecDepth 100000 in
/-- R149: copy B alone is valid: PROFILE_ONE_BAD (bit 6); device 1 wakes. -/
theorem test_copy_b_used :
    let t := after (.copyBReadEnd profile) (copying .b)
    t.host.fault = 0b1000000 ∧ t.loader.inUse = some .b ∧ t.loader.generation = 7 ∧ (t.device 1).state = .waking := by decide +kernel

theorem test_poll_timer :
    ((after (.pollTimerExpiry 1) (withDevice 1 { idle with state := .cycling, pollTimer := true } live)).channel 0).frame
      = some ⟨1, .ask .poll, .two, false⟩ := by decide +kernel

theorem test_wake_limit :
    let t := after (.wakeLimitExpiry 1) (withDevice 1 { idle with state := .waking, wakeLimit := some 20 } live)
    (t.device 1).state = .offline ∧ t.flag .deviceLost = true := by decide +kernel

theorem test_cycle_timer :
    (after (.cycleTimerExpiry 1) (withDevice 1 { idle with state := .cycling, cycleTimer := some 20, slot := some 4 }
      (withBuffer 4 attempted live))).pool.failures = [⟨1, 31, .timeout⟩] := by decide +kernel

/-- R103: a durable order with one failed page of two. -/
theorem test_durable_end :
    ended 0 (after .durableOrderEnd (withEntry 0 { order .write { wr with flags := 1 } .held with
      failedPages := 1, firstFailure := some ⟨1, 31, .verify⟩ } live)) = some (.pageFailed, 1) := by decide +kernel

/-- 1.14: eight entries and two drops; a FLUSH of the device counts 8, one of all devices has the drops in the upper half. -/
theorem test_flush_report :
    let s (d : Byte) : State := { withEntry 0 (order .flush { blank with device := d } .held) live with
      pool := { Pool.reset with failures := List.replicate 8 ⟨3, 1, .protection⟩, dropped := 2 } }
    ended 0 (after .flushReport (s 3)) = some (.lateFailures, 8) ∧ (after .flushReport (s 3)).pool.dropped = 2
      ∧ ended 0 (after .flushReport (s 15)) = some (.lateFailures, 0x20008) := by decide +kernel

/-- 7.10, event 4: the entry is GUARDED and the guard asserted when the SET_ZONE acts. -/
theorem test_set_zone_action :
    let s := { atBarrier .setZone { blank with selector := 4, payload := 0x0000001D00140101 } .held with
      zones := ⟨(Vector.replicate 16 none).set 4 (some ⟨1, 20, 29, .guardedZone⟩), true⟩ }
    ended 0 (after .setZoneAction s) = some (.protection, 0)
      ∧ (after .setZoneAction s).zones.entries[(4 : ZoneIndex)] = some ⟨1, 20, 29, .guardedZone⟩ := by decide +kernel

/-- R40: present yes to no: ABSENT. -/
theorem test_set_geometry_apply :
    let t := after .setGeometryApply (atBarrier .setGeometry { blank with device := 1 } .held)
    ended 0 t = some (.ok, 0) ∧ (t.device 1).state = .absent := by decide +kernel

/-- R112: the build of a store whose device 0 is OFFLINE. -/
theorem test_store_build :
    ended 0 (after .storeProfileBuild (withDevice 0 { idle with state := .offline } (atBarrier .storeProfile blank .active)))
      = some (.deviceOffline, 0) := by decide +kernel

theorem test_load_end :
    (after .loadEnd { live with host := { HostPort.reset with part := .loading, run := true }, fetch := .reset
                                loader := { live.loader with phase := some .wakeRest } }).host.part = .settingUp := by decide +kernel

/-- R91: orders that start and fail in one event: the Gather Engine's joins before the Read Engine's. -/
theorem test_started_join :
    let t := after .writeStart { withEntry 1 (order .write { wr with device := 2 } .waiting)
        (withEntry 0 (order .read { wr with device := 2 } .waiting) live) with
      gather := { live.gather with queue := [1] }, reader := { ReadEngine.reset with waiting := [0] }, host := { live.host with part := .halted } }
    t.orders.done = [1, 0] ∧ ended 0 t = some (.noDevice, 0) ∧ ended 1 t = some (.noDevice, 0) := by decide +kernel

theorem test_drain_end : (after .drainEnd { live with host := { live.host with part := .draining } }).host.part = .stopped := by
  decide +kernel

/-! ### Witnesses: for every statement with hypotheses, states and operands that meet them

Each theorem is named after its statement and lists that statement's hypotheses, clause by clause, at concrete values. -/

theorem live_live : live.Live := ⟨rfl, rfl⟩
theorem fetching_live : fetching.Live := ⟨rfl, rfl⟩

/-- A part held in reset with the guard line asserted. -/
def held : State := { State.reset with pins := ⟨true, true, false, false⟩, zones := ⟨Vector.replicate 16 none, true⟩ }

theorem held_held : held.HeldInReset := by constructor <;> decide +kernel

theorem witness_StepTakesFrontCommand :
    ({ live with pending := [.loadEnd, .drainEnd] } : State).pending = .loadEnd :: [.drainEnd] ∧ live.pending = [] := ⟨rfl, rfl⟩

/-- A READ alone in the table, in the waiting set. -/
def readWaits : State := { withEntry 0 (order .read wr .waiting) live with reader := { ReadEngine.reset with waiting := [0] } }

/-- A CLOSED buffer in the program queue of channel 0, and two items that wait. -/
def queueing : State :=
  (withBuffer 4 { gathered with state := .closed, linger := none } live).mapChannel 0 fun c => { c with
    queue := [4], waiting := [⟨1, .programStart 4, 3⟩, ⟨0, .ask .wake, 5⟩] }

theorem witness_EventEndFrame :
    (∃ t, fetching.host.engine = some t)
    ∧ (live.gatherStep? = none ∧ live.readStep? = none ∧ (requesting.gatherStep?).isSome = true
      ∧ readWaits.gatherStep? = none ∧ (readWaits.readStep?).isSome = true)
    ∧ ((∀ b ∈ (live.channel 0).queue, ¬ live.MayTake b)
      ∧ ∃ y, (queueing.channel 0).queue = [] ++ 4 :: [] ∧ queueing.MayTake 4 ∧ queueing.buffer? 4 = some y
        ∧ ¬ y.hasHole ∧ y.spanIs 2 2)
    ∧ ((live.channel 0).waiting = [] ∧ (queueing.channel 0).frame = none
      ∧ (∀ i ∈ (queueing.channel 0).waiting, queueing.MayGrant i ∧ channelOf i.device = 0)
      ∧ comesFirst 3 ⟨0, .ask .wake, 5⟩ ⟨1, .programStart 4, 3⟩) := by
  refine ⟨⟨_, rfl⟩, by decide +kernel, ⟨fun b hb => absurd (show b ∈ ([] : List BufferId) from hb) (by simp), _, rfl, ⟨_, rfl, rfl, rfl, rfl⟩, rfl, ?_, ?_⟩, rfl, rfl, ?_, .inl (by decide)⟩
  · rintro ⟨i, k, j, v, w, h1, h2, hi, hk, hj⟩
    have bounds := (by decide : ∀ i < 64, (gathered.image[i]?).join.isSome = true → 2 ≤ i ∧ i < 4)
    have bi := bounds i (List.getElem?_eq_some_iff.1 hi).1 (by rw [show gathered.image[i]? = some (some v) from hi]; rfl)
    have bj := bounds j (List.getElem?_eq_some_iff.1 hj).1 (by rw [show gathered.image[j]? = some (some w) from hj]; rfl)
    omega
  · refine ⟨by decide, ⟨0xAA, rfl⟩, ⟨0xBB, rfl⟩, fun i v hi => ?_⟩
    exact (by decide : ∀ i < 64, (gathered.image[i]?).join.isSome = true → 2 ≤ i ∧ i < 4) i (List.getElem?_eq_some_iff.1 hi).1
      (by rw [show gathered.image[i]? = some (some v) from hi]; rfl)
  · intro i hi
    have : i = ⟨1, .programStart 4, 3⟩ ∨ i = ⟨0, .ask .wake, 5⟩ := by simpa [queueing] using hi
    rcases this with rfl | rfl
    · exact ⟨⟨rfl, rfl⟩, rfl⟩
    · exact ⟨trivial, rfl⟩

theorem witness_RegisterReads : State.reset.pins.hrst = true ∧ live.pins.hrst = false := ⟨rfl, rfl⟩

theorem witness_LinkResetHoldsEveryBlock :
    held.HeldInReset ∧ (∀ bw, Instr.runSet true true ≠ .hrstRelease bw) ∧ (∀ a, Instr.runSet true true ≠ .grdChange a)
      ∧ Instr.runSet true true ≠ .linkReset := ⟨held_held, by simp, by simp, by simp⟩

theorem witness_HrstReleaseBeginsLoading : held.HeldInReset ∧ live.pins.hrst = false := ⟨held_held, rfl⟩

/-- A local reset is pending while a fetch is on the bus. -/
def resetting : State := { fetching with host := { fetching.host with resetPending := true } }

theorem witness_LocalResetAtOnceOrPending :
    (live.Live ∧ live.host.engine = none)
    ∧ (fetching.pins.hrst = false ∧ fetching.host.engine ≠ none)
    ∧ (resetting.pins.hrst = false ∧ resetting.host.resetPending = true) := ⟨⟨live_live, rfl⟩, ⟨rfl, by decide⟩, rfl, rfl⟩

theorem witness_PendingResetAtBurstEnd :
    ∃ x, resetting.pins.hrst = false ∧ resetting.host.resetPending = true ∧ resetting.host.engine = some x
      ∧ (Instr.masterBurstRetry 0).endsBurst x = true ∧ (Instr.orderFetchHostFault .abort).endsBurst x = true
      ∧ (Instr.read wr).endsBurst x = true ∧ ∃ bw, bw = Config.bwLevel (resetting.event + 1) :=
  ⟨_, rfl, rfl, rfl, by decide, by decide, by decide, _, rfl⟩

theorem witness_RunSetByPartState :
    (resetting.pins.hrst = false ∧ resetting.host.resetPending = true)
    ∧ (live.host.resetPending = false ∧ live.host.run = true)
    ∧ (settingUp.pins.hrst = false ∧ settingUp.host.resetPending = false)
    ∧ ∃ s : State, s.pins.hrst = false ∧ s.host.resetPending = false ∧ s.host.run = false ∧ s.host.part = .stopped
        ∧ s.fetch.config = none :=
  ⟨⟨rfl, rfl⟩, ⟨rfl, rfl⟩, ⟨rfl, rfl⟩, { live with host := { HostPort.reset with part := .stopped }, fetch := .reset }, rfl, rfl, rfl, rfl, rfl⟩

theorem witness_RunClearDrains :
    (resetting.pins.hrst = false ∧ resetting.host.resetPending = true)
    ∧ (live.pins.hrst = false ∧ live.host.resetPending = false ∧ live.host.run = true ∧ live.host.part = .running)
    ∧ (settingUp.pins.hrst = false ∧ settingUp.host.resetPending = false ∧ settingUp.host.part ≠ .running) := by decide

theorem witness_EnablesMoveIntreq : live.pins.hrst = false := rfl

theorem witness_SetupAddrAndIgnoredWrites :
    (live.pins.hrst = false ∧ live.host.part ≠ .stopped)
    ∧ ∃ s : State, s.pins.hrst = false ∧ s.host.part = .stopped ∧ s.fetch.config = none ∧ s.host.resetPending = false :=
  ⟨by decide, { live with host := { HostPort.reset with part := .stopped }, fetch := .reset }, rfl, rfl, rfl, rfl⟩

/-- The boundary values 7 and 8 of a ring of 8 slots. -/
theorem witness_TailWrites :
    (resetting.pins.hrst = false ∧ resetting.host.resetPending = true)
    ∧ (settingUp.pins.hrst = false ∧ settingUp.host.resetPending = false ∧ settingUp.fetch.config = none)
    ∧ (live.pins.hrst = false ∧ live.host.resetPending = false ∧ live.fetch.config = some rings
        ∧ (7#32).toNat < rings.normal.size ∧ ¬ (8#32).toNat < rings.urgent.size) := by decide

/-- 9.7, event 4 and before it: tail and CHEAD at 6. -/
def sixSix : State := { live with poster := ⟨6, 6, 43⟩ }

theorem witness_CheadWrite :
    (sixSix.pins.hrst = false ∧ sixSix.IndicesFit ∧ sixSix.host.resetPending = false ∧ sixSix.fetch.config ≠ none
      ∧ (6#32).toNat = sixSix.poster.head)
    ∧ (settingUp.pins.hrst = false ∧ settingUp.IndicesFit ∧ settingUp.fetch.config = none)
    ∧ rings.completion.size ≤ (16#32).toNat
    ∧ ((sixSix.poster.tail : Int) - sixSix.poster.head) % rings.completion.size
        < (((7#32).toNat : Int) - sixSix.poster.head) % rings.completion.size
    ∧ (live.Live ∧ live.host.engine = none)
    ∧ (resetting.pins.hrst = false ∧ resetting.host.resetPending = true ∧ ∃ x, resetting.host.engine = some x) :=
  ⟨⟨rfl, (by decide : 0 < 8 ∧ 0 < 8 ∧ 0 < 8 ∧ 0 < 8 ∧ 6 < 16 ∧ 6 < 16), rfl, by decide, by decide⟩,
    ⟨rfl, (by decide : 0 = 0 ∧ 0 = 0 ∧ 0 = 0 ∧ 0 = 0 ∧ 0 = 0 ∧ 0 = 0), rfl⟩, by decide, by decide, ⟨live_live, rfl⟩, rfl, rfl, _, rfl⟩

theorem witness_FaultWriteClearsFlags : live.pins.hrst = false := rfl

/-- A done order whose record can be written: the engine is idle. -/
def mayPost : State := { posting with host := live.host }

/-- A report store and a write-data read asked for in one event. -/
def twoRequests : State := { withEntry 1 (order .report blank .active) (withEntry 0 (order .write wr .active) live) with
  host := { live.host with requests := [⟨.writeData 0, 7, []⟩, ⟨.reportStore 1, 7, []⟩] } }

/-- Each kind of class-2 request, alone: write data for a span in hand, read data of an assembled span, a report. -/
def asking (r : Request) : State :=
  { withEntry 1 (order .report blank .active) (withEntry 0 (order .write { wr with address := 1984 } .active) live) with
    host := { live.host with requests := [r] }
    gather := ⟨[], some ⟨0, .hostData, some ⟨1984, 2⟩, none, [], []⟩⟩
    reader := { ReadEngine.reset with active := some ⟨0, ⟨1986, 2⟩, [.fromBuffer 1, .fromDevice 2], true⟩ } }

theorem witness_MasterArbiterGrants_class2 :
    (∃ t y, (asking ⟨.writeData 0, 7, []⟩).host.requests ≠ [] ∧ (asking ⟨.writeData 0, 7, []⟩).gather.turn = some t
      ∧ (asking ⟨.writeData 0, 7, []⟩).entry? t.entry = some y ∧ t.span = some ⟨1984, 2⟩)
    ∧ (∃ a y, (asking ⟨.readData 0, 7, []⟩).host.requests ≠ [] ∧ (asking ⟨.readData 0, 7, []⟩).reader.active = some a
      ∧ (asking ⟨.readData 0, 7, []⟩).entry? a.entry = some y ∧ a.staging.length = a.span.length)
    ∧ ∃ y, (asking ⟨.reportStore 1, 7, []⟩).host.requests ≠ [] ∧ (asking ⟨.reportStore 1, 7, []⟩).entry? 1 = some y :=
  ⟨⟨⟨0, .hostData, some ⟨1984, 2⟩, none, [], []⟩, _, by decide, rfl, rfl, rfl⟩,
    ⟨⟨0, ⟨1986, 2⟩, [.fromBuffer 1, .fromDevice 2], true⟩, _, by decide, rfl, rfl, rfl⟩, _, by decide, rfl⟩

theorem witness_MasterArbiterGrants :
    (fetching.host.engine ≠ none ∧ resetting.host.resetPending = true)
    ∧ (mayPost.host.engine = none ∧ mayPost.host.part ≠ .halted ∧ mayPost.host.resetPending = false
      ∧ mayPost.host.part ≠ .loading ∧ mayPost.orders.done = 2 :: [] ∧ mayPost.fetch.config = some rings
      ∧ (mayPost.poster.tail + 1) % rings.completion.size ≠ mayPost.poster.head
      ∧ ∃ x r, mayPost.entry? 2 = some x ∧ x.result = some r)
    ∧ (∃ s : State, s.host.engine = none ∧ s.host.part = .settingUp ∧ s.host.resetPending = false ∧ s.orders.done = []
        ∧ s.host.setupRequest = true)
    ∧ (twoRequests.host.engine = none ∧ twoRequests.host.part = .running ∧ twoRequests.host.resetPending = false
      ∧ twoRequests.orders.done = [] ∧ twoRequests.host.setupRequest = false ∧ twoRequests.host.requests ≠ [])
    ∧ (live.host.engine = none ∧ live.host.setupRequest = false ∧ live.host.requests = [] ∧ live.orders.done = []
      ∧ ∃ e, live.entry? e = none) :=
  ⟨by decide, ⟨rfl, by decide, rfl, by decide, rfl, rfl, by decide, _, _, rfl, rfl⟩,
    ⟨{ settingUp with host := { settingUp.host with engine := none, setupRequest := true } }, rfl, rfl, rfl, rfl, rfl⟩,
    ⟨rfl, rfl, rfl, rfl, rfl, by decide⟩, rfl, rfl, rfl, rfl, 0, rfl⟩

theorem witness_CompletionRecordBytes :
    (order .write wr .done).slot < 2048
    ∧ ∀ f, (⟨.pageFailed, 1, some ⟨1, 65535, .verify⟩⟩ : Result).failure = some f → f.page < 65536 := by
  refine ⟨by decide, ?_⟩; rintro _ ⟨⟩; decide

theorem witness_BurstsOfTransfer :
    (∃ x, (withBus ⟨.readData 0, false, 0x8000, 32, [], 0, 5, 3⟩ live).Live
      ∧ (withBus ⟨.readData 0, false, 0x8000, 32, [], 0, 5, 3⟩ live).host.engine = some x ∧ x.moved + x.inBurst < x.words
      ∧ x.taken + 10 < x.inBurst ∧ ((0 : Nat) = 0 → x.retries + 1 < 64))
    ∧ ∃ x, (withBus ⟨.setupRead, false, 0x1000, 8, [], 0, 7, 63⟩ live).host.engine = some x ∧ x.taken < x.inBurst ∧ 63 ≤ x.retries
        ∧ (x.job = .setupRead → x.words ≤ x.moved + x.inBurst) :=
  ⟨⟨_, ⟨rfl, rfl⟩, rfl, by decide, by decide, by decide⟩, _, rfl, by decide, by decide, by decide⟩

theorem witness_SetupBlockJudged :
    (∃ s : State, s.Live ∧ s.host.part = .settingUp ∧ s.fetch.config = none ∧ s.host.setupRequest = true ∧ s.host.engine = none)
    ∧ (∃ x, settingUp.Live ∧ settingUp.host.engine = some x ∧ x.job = .setupRead ∧ x.words ≤ x.moved + x.inBurst)
    ∧ SetupBad ⟨0x1020, 0x2000, 0x3000, 8, 16, 32, 4, 50, 0⟩
    ∧ ¬ SetupBad ⟨0x1000, 0x2000, 0xFFFF8000, 8, 1024, 2048, 64, 0, 0⟩ := by
  refine ⟨⟨{ settingUp with host := { settingUp.host with engine := none, setupRequest := true } }, ⟨rfl, rfl⟩, rfl, rfl, rfl, rfl⟩,
    ⟨_, ⟨rfl, rfl⟩, rfl, rfl, by decide⟩, .inl (.inl (by decide)), ?_⟩
  unfold SetupBad
  rintro (h | h | h | h | h | h | h)
  · revert h; decide
  · exact h ⟨3, by decide⟩
  · exact h ⟨10, by decide⟩
  · exact h ⟨11, by decide⟩
  all_goals revert h; decide

theorem witness_HaltingHostFaults :
    (∃ x, settingUp.Live ∧ settingUp.host.engine = some x ∧ x.givenUp = false ∧ x.job = .setupRead ∧ x.words ≤ x.moved + x.inBurst)
    ∧ (∃ x, fetching.Live ∧ fetching.host.engine = some x ∧ x.givenUp = false ∧ x.job = .orderFetch .normal 0)
    ∧ ∃ x, posting.Live ∧ posting.host.engine = some x ∧ x.givenUp = false ∧ x.job = .completionWrite 2 :=
  ⟨⟨_, ⟨rfl, rfl⟩, rfl, rfl, rfl, by decide⟩, ⟨_, ⟨rfl, rfl⟩, rfl, rfl, rfl⟩, _, ⟨rfl, rfl⟩, rfl, rfl, rfl⟩

theorem witness_CompletionWritten :
    ∃ x, posting.Live ∧ posting.host.engine = some x ∧ x.job = .completionWrite 2 ∧ x.words ≤ x.moved + x.inBurst
      ∧ posting.fetch.config = some rings ∧ posting.orders.done = 2 :: [] ∧ (2 : EntryId) ∉ ([] : List EntryId) :=
  ⟨_, ⟨rfl, rfl⟩, rfl, rfl, by decide, rfl, rfl, by decide⟩

theorem witness_WriteDataArrives :
    ∃ x t y, writing.Live ∧ writing.host.engine = some x ∧ x.job = .writeData t.entry ∧ writing.gather.turn = some t
      ∧ writing.entry? t.entry = some y ∧ x.words ≤ x.moved + x.inBurst ∧ [0x44332211#32].length = x.words ∧ x.givenUp = false
      ∧ t.span = some ⟨1984, 2⟩ ∧ t.touched.Nodup ∧ t.joined.Nodup :=
  ⟨_, ⟨0, .hostData, some ⟨1984, 2⟩, none, [], []⟩, _, ⟨rfl, rfl⟩, rfl, rfl, rfl, rfl, by decide, rfl, rfl, rfl, by decide, by decide⟩

/-- The last span, and a span before the last (42 bytes, 2 of them in hand). -/
theorem witness_ReadDataStored :
    (∃ x a y, delivering.Live ∧ delivering.host.engine = some x ∧ x.job = .readData a.entry ∧ delivering.reader.active = some a
      ∧ delivering.entry? a.entry = some y ∧ y.kind = .read ∧ x.words ≤ x.moved + x.inBurst ∧ x.givenUp = false
      ∧ y.record.length ≤ y.progress + a.span.length)
    ∧ ∃ (s : State) (x : Transfer) (a : ActiveRead) (y : Entry), s.Live ∧ s.host.engine = some x ∧ x.job = .readData a.entry
      ∧ s.reader.active = some a ∧ s.entry? a.entry = some y ∧ y.kind = .read ∧ x.words ≤ x.moved + x.inBurst ∧ x.givenUp = false
      ∧ ¬ y.record.length ≤ y.progress + a.span.length :=
  ⟨⟨_, ⟨0, ⟨1986, 2⟩, [.fromBuffer 1, .fromBuffer 2], true⟩, _, ⟨rfl, rfl⟩, rfl, rfl, rfl, rfl, rfl, by decide, rfl, by decide⟩,
    withEntry 0 (order .read wr .active) delivering, _, ⟨0, ⟨1986, 2⟩, [.fromBuffer 1, .fromBuffer 2], true⟩, _, ⟨rfl, rfl⟩, rfl, rfl,
    rfl, rfl, rfl, by decide, rfl, by decide⟩

theorem witness_ReportStored :
    ∃ x y, (withEntry 0 (order .report blank .active) (withBus (oneWord (.reportStore 0)) live)).Live
      ∧ (withEntry 0 (order .report blank .active) (withBus (oneWord (.reportStore 0)) live)).host.engine = some x
      ∧ x.job = .reportStore 0 ∧ x.givenUp = false
      ∧ (withEntry 0 (order .report blank .active) (withBus (oneWord (.reportStore 0)) live)).entry? 0 = some y
      ∧ (WriteEnd.complete = .complete → x.words ≤ x.moved + x.inBurst) :=
  ⟨_, _, ⟨rfl, rfl⟩, rfl, rfl, rfl, rfl, by decide⟩

/-! Acceptance: a fetch on the bus, entry 0 free, and a record of each kind that R73 refuses or does not. -/

theorem fetching_accepts :
    ∃ x, fetching.Live ∧ fetching.host.engine = some x ∧ x.job = .orderFetch .normal 0 ∧ fetching.fetch.config = some rings
      ∧ fetching.entry? 0 = none ∧ ∀ e' : EntryId, e' < 0 → fetching.entry? e' ≠ none :=
  ⟨_, ⟨rfl, rfl⟩, rfl, rfl, rfl, rfl, by decide⟩

theorem witness_RecordsAcceptedOrRefused :
    (Instr.write wr).slot? = some (2, wr) ∧ (Instr.write wr).wellFormed = true ∧ ¬ Refused 2 wr
    ∧ (Instr.unknownKind 11 blank).slot? = some (11, blank) ∧ (Instr.unknownKind 11 blank).wellFormed = true ∧ Refused 11 blank
    ∧ Refused 1 { wr with address := 0x1000000 } ∧ ¬ Refused 1 { wr with address := 0xFFFFFF } :=
  ⟨rfl, rfl, by unfold Refused; decide, rfl, rfl, by unfold Refused; decide, by unfold Refused; decide, by unfold Refused; decide⟩

theorem witness_AcceptedOrdersHandedOn :
    ¬ Refused 1 wr ∧ ¬ Refused 2 { wr with flags := 3 } ∧ ¬ Refused 3 wr ∧ ¬ Refused 4 { blank with device := 15 }
    ∧ ¬ Refused 6 { blank with selector := 15, payload := 0x0000001D00140101 } ∧ ¬ Refused 7 { blank with payload := 0x0000140200C70301 }
    ∧ ¬ Refused 8 blank := by
  refine ⟨?_, ?_, ?_, ?_, ?_, ?_, ?_⟩ <;> unfold Refused <;> decide

theorem witness_CancelRemovesWaiting : ¬ Refused 5 { blank with selector := 1, payload := 9 } := by unfold Refused; decide

theorem witness_ReviveByDeviceState :
    ¬ Refused 9 { blank with device := 7 } ∧ (fetching.device 7).state = .absent ∧ (fetching.device 1).state = .idle
    ∧ ((withDevice 1 { idle with state := .offline } fetching).device 1).state = .offline :=
  ⟨by unfold Refused; decide, rfl, rfl, rfl⟩

theorem witness_ReportSnapshot : ¬ Refused 10 { blank with buffer := 0xFFFFFF80 } ∧ fetching.pool.failures.length ≤ 8 :=
  ⟨by unfold Refused; decide, by decide⟩

/-! Starts: order 0 alone in the table, at the head of the gather queue. -/

/-- With order 0 alone in the table, nothing holds an order back. -/
theorem alone_allowed {s : State} {x y : Entry} (hx : s.entry? 0 = some x) (h : ∀ e : EntryId, e ≠ 0 → s.entry? e = none)
    (hy : x.sequence = y.sequence) : s.GatherAllowed y ∧ s.ReadAllowed y := by
  have no : ∀ e z, s.entry? e = some z → ¬ s.Earlier z y := by
    rintro e z hz ⟨q, p, hq, hp, lt⟩
    by_cases he : e = 0
    · subst he; rw [hx] at hz; cases hz; rw [hy, hp] at hq; cases hq; omega
    · rw [h e he] at hz; cases hz
  exact ⟨fun e z hz hE => absurd hE (no e z hz), fun e z hz hE => absurd hE (no e z hz)⟩

/-- An earlier READ of the same bytes waits. -/
def heldBack (k : Kind) : State :=
  withEntry 1 { order .read wr .waiting with sequence := some 3 } (queued k wr)

theorem not_allowed (k : Kind) (hk : k = .write ∨ k = .fill) : ¬ (heldBack k).GatherAllowed (order k wr .waiting) := by
  intro h
  refine (h 1 { order .read wr .waiting with sequence := some 3 } rfl ⟨3, 4, rfl, rfl, (by decide : (5#32 - 4#32).toNat < (5#32 - 3#32).toNat)⟩ rfl
    (.inl rfl)).1
    ⟨by simpa [order] using hk.imp id .inl, 1, 2000, ?_, ?_⟩
  · exact ⟨rfl, by decide, by decide⟩
  · rcases hk with rfl | rfl <;> exact ⟨rfl, by decide, by decide⟩

theorem witness_WriteAndFillStart :
    (∀ k, k = .write ∨ k = .fill →
      (queued k wr).pins.hrst = false ∧ (queued k wr).gather.turn = none ∧ (queued k wr).gather.queue = 0 :: []
      ∧ (queued k wr).entry? 0 = some (order k wr .waiting) ∧ (order k wr .waiting).sequence ≠ none
      ∧ (queued k wr).GatherAllowed (order k wr .waiting))
    ∧ (heldBack .write).gather.queue = 0 :: [] ∧ ¬ (heldBack .write).GatherAllowed (order .write wr .waiting)
    ∧ (live.device 2).state = .absent
    ∧ ((withDevice 1 { idle with state := .offline } live).device 1).state = .offline
    ∧ live.pageSize 1 * live.pageCount 1 < 65497 + 40 ∧ ¬ live.pageSize 1 * live.pageCount 1 < 65496 + 40
    ∧ ((1023 : Nat) < 1024 ∧ ¬ (1024 : Nat) < 1024)
    ∧ (∃ s : State, s.Locked 1 31)
    ∧ ¬ live.Locked 1 31 := by
  refine ⟨?_, rfl, not_allowed _ (.inl rfl), rfl, rfl, by decide, by decide, by decide, ?_, ?_⟩
  · rintro k (rfl | rfl) <;> exact ⟨rfl, rfl, rfl, rfl, by decide, (alone_allowed (x := order _ wr .waiting) rfl (by decide) rfl).1⟩
  · exact ⟨{ live with zones := ⟨(Vector.replicate 16 none).set 0 (some ⟨1, 31, 31, .lockedZone⟩), false⟩ }, 0, ⟨1, 31, 31, .lockedZone⟩,
      by decide, rfl, by decide, by decide, by decide, .inl rfl⟩
  · rintro ⟨i, z, hz, -⟩
    have : ∀ i : ZoneIndex, live.zones.entries[i] = none := by decide
    rw [this] at hz; cases hz

/-- The three branches: no device, no buffer in scope, a buffer in scope. -/
theorem witness_FlushStart :
    (queued .flush { blank with device := 15 }).gather.queue = 0 :: []
    ∧ (queued .flush { blank with device := 15 }).entry? 0 = some (order .flush { blank with device := 15 } .waiting)
    ∧ ((2#8 : Byte) ≠ 15 ∧ (live.device ({ blank with device := 2 } : OrderRecord).position).state = .absent)
    ∧ (∀ b, live.buffer? b = none)
    ∧ (withBuffer 7 gathered live).buffer? 7 = some gathered ∧ gathered.device = ({ blank with device := 1 } : OrderRecord).position :=
  ⟨rfl, rfl, by decide, by decide, rfl, rfl⟩

/-- A FLUSH of device 1, then one of all devices; nothing to wait for. -/
def twoFlushes : State :=
  withEntry 1 { order .flush { blank with device := 15 } .held with sequence := some 5 }
    (withEntry 0 (order .flush { blank with device := 1 } .held) { live with orders := { live.orders with sequence := 6 } })

theorem witness_FlushReports :
    (∃ x, (withEntry 0 (order .flush { blank with device := 15 } .held) live).entry? 0 = some x ∧ x.kind = .flush ∧ x.state = .held
      ∧ x.watch = [] ∧ live.pins.hrst = false)
    ∧ ∃ y, twoFlushes.entry? 1 = some y ∧ y.kind = .flush ∧ y.state = .held ∧ y.watch = [] ∧ twoFlushes.flushesDue = [0] ++ 1 :: [] :=
  ⟨⟨_, rfl, rfl, rfl, rfl, rfl⟩, _, rfl, rfl, rfl, rfl, by decide +kernel⟩

/-- R109: the second FLUSH reports only what the first has left: one of two failures. -/
theorem test_two_flushes :
    let s := { twoFlushes with pool := { Pool.reset with failures := [⟨1, 31, .verify⟩, ⟨5, 2, .timeout⟩] } }
    ended 0 (after .flushReport s) = some (.lateFailures, 1) ∧ ended 1 (after .flushReport s) = some (.lateFailures, 1)
      ∧ (after .flushReport s).pool.failures = [] := by decide +kernel

/-- A SET_ZONE record: index 4, pages 20 to 31 of device 1, OPEN. -/
def zoneRecord : OrderRecord := { blank with selector := 4, payload := 0x0000001F00140101 }

theorem witness_SetZoneStartAndAction :
    ((queued .setZone zoneRecord).pins.hrst = false ∧ (queued .setZone zoneRecord).gather.turn = none
      ∧ (queued .setZone zoneRecord).gather.queue = 0 :: [] ∧ zoneRecord.zone = some (some ⟨1, 20, 31, .openZone⟩)
      ∧ live.zones.guard = false ∧ ¬ live.pageCount 1 ≤ 31 ∧ live.pageCount 2 ≤ 31)
    ∧ (withBuffer 7 gathered live).Concerns (some ⟨1, 20, 31, .openZone⟩) gathered
    ∧ (∃ t x, (atBarrier .setZone zoneRecord .held).pins.hrst = false ∧ (atBarrier .setZone zoneRecord .held).gather.turn = some t
      ∧ t.work = .barrier ∧ (atBarrier .setZone zoneRecord .held).entry? t.entry = some x ∧ x.kind = .setZone ∧ x.watch = [])
    ∧ ∃ (s : State) (i : ZoneIndex) (z : Zone), s.zones.guard = true ∧ s.zones.entries[i] = some z ∧ z.mode = .guardedZone :=
  ⟨⟨rfl, rfl, rfl, by decide, rfl, by decide, by decide⟩, ⟨_, rfl, rfl, by decide, by decide, by decide⟩,
    ⟨⟨0, .barrier, none, none, [], []⟩, _, rfl, rfl, rfl, rfl, rfl, rfl⟩,
    { live with zones := ⟨(Vector.replicate 16 none).set 4 (some ⟨1, 20, 29, .guardedZone⟩), true⟩ }, 4, ⟨1, 20, 29, .guardedZone⟩,
    rfl, by decide, rfl⟩

/-- A SET_GEOMETRY record for device 0: 8 pages of 128 bytes, 1024 bytes in all. -/
def geometryRecord : OrderRecord := { blank with payload := 0x0000140200070301 }

theorem witness_SetGeometryStartAndApply :
    ((queued .setGeometry geometryRecord).pins.hrst = false ∧ (queued .setGeometry geometryRecord).gather.turn = none
      ∧ (queued .setGeometry geometryRecord).gather.queue = 0 :: [] ∧ geometryRecord.geometry = some (some ⟨.b128, 8, .two, 20⟩)
      ∧ (queued .setGeometry geometryRecord).GatherAllowed (order .setGeometry geometryRecord .waiting)
      ∧ (queued .setGeometry geometryRecord).GeometryFits 0 (some ⟨.b128, 8, .two, 20⟩)
      ∧ ¬ (queued .setGeometry geometryRecord).GeometryFits 0 (some ⟨.b128, 7, .two, 20⟩)
      ∧ ∀ b, (queued .setGeometry geometryRecord).buffer? b = none)
    ∧ (∃ b y, (withBuffer 7 gathered live).buffer? b = some y ∧ y.device = 1)
    ∧ ∃ t x, (atBarrier .setGeometry geometryRecord .held).gather.turn = some t ∧ t.work = .barrier
      ∧ (atBarrier .setGeometry geometryRecord .held).entry? t.entry = some x ∧ x.kind = .setGeometry ∧ x.watch = [] :=
  ⟨⟨rfl, rfl, rfl, by decide, (alone_allowed (x := order .setGeometry geometryRecord .waiting) rfl (by decide) rfl).1,
      ⟨by decide, fun _ => by decide⟩, by rintro ⟨-, h⟩; exact absurd (h rfl).1 (by decide), by decide⟩,
    ⟨7, gathered, rfl, rfl⟩, ⟨0, .barrier, none, none, [], []⟩, _, rfl, rfl, rfl, rfl, rfl⟩

theorem witness_StoreProfileStartAndBuild :
    ((queued .storeProfile blank).pins.hrst = false ∧ (queued .storeProfile blank).gather.turn = none
      ∧ (queued .storeProfile blank).gather.queue = 0 :: [] ∧ (queued .storeProfile blank).loader.targets .a
      ∧ (queued .storeProfile blank).GatherAllowed (order .storeProfile blank .waiting)
      ∧ (queued .storeProfile blank).loader.generation ≠ 0xFFFFFFFF#32 ∧ (queued .storeProfile blank).zones.guard = false
      ∧ ∀ b, (queued .storeProfile blank).buffer? b = none)
    ∧ live.holdsCopy .a { gathered with device := 0, page := 3 } = true
    ∧ live.holdsCopy .a { gathered with device := 0, page := 4 } = false
    ∧ ∃ t x j, (atBarrier .storeProfile blank .active).gather.turn = some t ∧ t.work = .barrier
      ∧ (atBarrier .storeProfile blank .active).entry? t.entry = some x ∧ x.kind = .storeProfile ∧ x.watch = [] ∧ x.store = some j :=
  ⟨⟨rfl, rfl, rfl, rfl, (alone_allowed (x := order .storeProfile blank .waiting) rfl (by decide) rfl).1, by decide, rfl, by decide⟩,
    by decide, by decide, ⟨0, .barrier, none, none, [], []⟩, _, ⟨.b, 0⟩, rfl, rfl, rfl, rfl, rfl, rfl⟩

/-- A READ held back by an earlier WRITE of the same bytes. -/
def readHeld : State := withEntry 1 { order .write wr .active with sequence := some 3 } readWaits

theorem witness_ReadStartAndResume :
    (readWaits.pins.hrst = false ∧ readWaits.reader.active = none ∧ readWaits.reader.ready = [] ∧ 0 ∈ readWaits.reader.waiting
      ∧ readWaits.entry? 0 = some (order .read wr .waiting) ∧ readWaits.ReadAllowed (order .read wr .waiting)
      ∧ ∀ e' ∈ readWaits.reader.waiting, ∀ y, e' ≠ 0 → readWaits.entry? e' = some y → readWaits.ReadAllowed y →
        readWaits.orderAge e' < readWaits.orderAge 0)
    ∧ (readHeld.reader.active = none ∧ readHeld.reader.ready = []
      ∧ ∀ e ∈ readHeld.reader.waiting, ∀ x, readHeld.entry? e = some x → x.sequence ≠ none ∧ ¬ readHeld.ReadAllowed x)
    ∧ ∃ (s : State) (x : Entry), s.pins.hrst = false ∧ s.reader.active = none ∧ 0 ∈ s.reader.ready ∧ s.entry? 0 = some x ∧ x.kind = .read
      ∧ ∀ e' ∈ s.reader.ready, e' ≠ 0 → s.orderAge e' < s.orderAge 0 := by
  refine ⟨⟨rfl, rfl, rfl, by decide, rfl, (alone_allowed (x := order .read wr .waiting) rfl (by decide) rfl).2, ?_⟩, ⟨rfl, rfl, ?_⟩,
    ⟨{ withEntry 0 (order .read wr .parked) live with reader := { ReadEngine.reset with ready := [0] } }, _, rfl, rfl, by decide, rfl, rfl,
      by decide⟩⟩
  · intro e' he; simp [readWaits] at he; simp [he]
  · intro e he x hx
    obtain rfl : e = 0 := by simpa [readHeld, readWaits, withEntry] using he
    cases (show some (order .read wr .waiting) = some x from hx)
    refine ⟨by simp [order], fun h => ?_⟩
    refine (h 1 { order .write wr .active with sequence := some 3 } rfl ⟨3, 4, rfl, rfl, by decide⟩).1 ⟨.inl rfl, ⟨1, 2000, ?_, ?_⟩, .inr rfl⟩
    · exact ⟨rfl, by decide, by decide⟩
    · exact ⟨rfl, by decide, by decide⟩

/-- The clauses of EventEndFrame on the course of an event; those on the Read Engine have the states of ReadStartAndResume. -/
theorem witness_EventEndFrame_course :
    (live.gather.turn = none ∧ live.gather.queue = [])
    ∧ (∀ k, k = .write ∨ k = .fill → (queued k wr).gather.turn = none ∧ (queued k wr).gather.queue = 0 :: []
      ∧ (queued k wr).entry? 0 = some (order k wr .waiting) ∧ (queued k wr).GatherAllowed (order k wr .waiting))
    ∧ ((heldBack .write).gather.turn = none ∧ (heldBack .write).gather.queue = 0 :: []
      ∧ ¬ (heldBack .write).GatherAllowed (order .write wr .waiting))
    ∧ (∃ t, (atBarrier .setZone blank .held).gather.turn = some t ∧ t.span = none ∧ t.work = .barrier)
    ∧ (∃ t, writing.gather.turn = some t ∧ t.span ≠ none ∧ t.bytes = none)
    ∧ delivering.reader.active ≠ none
    ∧ (∀ o ∈ [live.gatherStep?, live.readStep?, live.takeStep? 0, live.takeStep? 1, live.grantStep? 0, live.grantStep? 1], o = none)
    ∧ (∃ s : State, s.loader.phase = some .wakeRest ∧ s.host.part = .loading ∧ (∀ d, (s.device d).state ≠ .waking)
      ∧ ∀ o ∈ [s.gatherStep?, s.readStep?, s.takeStep? 0, s.takeStep? 1, s.grantStep? 0, s.grantStep? 1], o = none)
    ∧ ∃ s : State, s.host.part = .draining ∧ (∀ e, s.entry? e = none) ∧ (∀ b, s.buffer? b = none) ∧ s.host.engine = none
      ∧ ∀ o ∈ [s.gatherStep?, s.readStep?, s.takeStep? 0, s.takeStep? 1, s.grantStep? 0, s.grantStep? 1], o = none := by
  refine ⟨⟨rfl, rfl⟩, ?_, ⟨rfl, rfl, not_allowed _ (.inl rfl)⟩, ⟨_, rfl, rfl, rfl⟩, ⟨_, rfl, by decide, rfl⟩, by decide, by decide +kernel,
    ⟨{ live with host := { live.host with part := .loading }, loader := { live.loader with phase := some .wakeRest } },
      rfl, rfl, by decide +kernel, by decide +kernel⟩,
    { live with host := { live.host with part := .draining } }, rfl, by decide +kernel, by decide +kernel, rfl, by decide +kernel⟩
  rintro k (rfl | rfl) <;> exact ⟨rfl, rfl, rfl, (alone_allowed (x := order _ wr .waiting) rfl (by decide) rfl).1⟩


/-- Bytes 2 and 3 of page 31 are in a buffer, byte 1 is not. -/
theorem witness_NewestBufferSuppliesByte :
    1 < (⟨1984, 4⟩ : Span).length ∧ (withBuffer 7 gathered live).BufferHolds 7 1 31 2 0xAA
    ∧ ∀ b v, ¬ live.BufferHolds b 1 31 1 v := by
  refine ⟨by decide, ⟨gathered, rfl, rfl, rfl, by decide⟩, ?_⟩
  rintro b v ⟨y, hy, -⟩
  have : ∀ b, live.buffer? b = none := by decide
  rw [this] at hy; cases hy

/-- The same READ, its first byte given by an earlier frame. -/
def readingOn : State :=
  withFrame 0 1 (.stream (.hostRead 0) 1985 3)
    { reading with reader := { ReadEngine.reset with
        active := some ⟨0, ⟨1984, 4⟩, [.fromDevice 0x55, .needed, .needed, .needed], false⟩ } }

theorem witness_HostReadFrameEnds :
    (∃ f a x, reading.pins.hrst = false ∧ (reading.channel 0).frame = some f ∧ f.dropped = false
      ∧ f.content = .stream (.hostRead 0) 1984 4 ∧ reading.reader.active = some a ∧ a.assembled = false
      ∧ reading.entry? a.entry = some x ∧ x.kind = .read ∧ a.staging.length = a.span.length ∧ a.span.address ≤ 1984)
    ∧ ∃ f a x, (readingOn.channel 0).frame = some f ∧ f.dropped = false ∧ f.content = .stream (.hostRead 0) 1985 3
      ∧ readingOn.reader.active = some a ∧ a.assembled = false ∧ readingOn.entry? a.entry = some x ∧ x.kind = .read
      ∧ a.staging.length = a.span.length ∧ a.span.address ≤ 1985 ∧ a.staging[0]? = some (.fromDevice 0x55) :=
  ⟨⟨_, ⟨0, ⟨1984, 4⟩, [.needed, .needed, .needed, .needed], false⟩, _, rfl, rfl, rfl, rfl, rfl, rfl, rfl, rfl, by decide, by decide⟩,
    _, ⟨0, ⟨1984, 4⟩, [.fromDevice 0x55, .needed, .needed, .needed], false⟩, _, rfl, rfl, rfl, rfl, rfl, rfl, rfl, by decide, by decide, rfl⟩

/-- R122: the byte an earlier frame gave is kept. -/
theorem test_host_read_on :
    (after (.hostReadFrameEnd 0 [0x22, 0x33, 0x44]) readingOn).host.engine.map (·.out) = some [(0x44332255#32, 0b1111#4)] := by
  decide +kernel

theorem witness_AllocationServed :
    ∃ t x r sp bytes, requesting.pins.hrst = false ∧ requesting.gather.turn = some t ∧ requesting.entry? t.entry = some x
      ∧ requesting.pool.request = some r ∧ t.span = some sp ∧ t.bytes = some bytes
      ∧ (∀ b' y, requesting.buffer? b' = some y → y.device = r.device → y.page = r.page → y.state ≠ .closed)
      ∧ requesting.buffer? 0 = none ∧ (∀ b' : BufferId, b' < 0 → requesting.buffer? b' ≠ none) ∧ 0 ∉ t.touched ∧ 0 ∉ t.joined := by
  refine ⟨⟨0, .hostData, some ⟨768, 16⟩, some (List.replicate 16 7), [], []⟩, _, _, _, _, rfl, rfl, rfl, rfl, rfl, rfl, ?_, rfl, by decide,
    by decide, by decide⟩
  intro b' y hy
  have : ∀ b, requesting.buffer? b = none := by decide
  rw [this] at hy; cases hy

/-- The same WRITE with nothing asked for, and with every record taken by a GATHERING buffer of another page, or by a CLOSED one. -/
def merging : State := { requesting with pool := { requesting.pool with request := none } }

def pressing (st : BufferState) (pressed : Bool) : State :=
  { requesting with pool := { requesting.pool with
      buffers := Vector.replicate 16 (some { gathered with state := st }), request := some ⟨1, 12, pressed⟩ } }

/-- Eight orders contribute to this buffer of the page. -/
def full : Buffer := { gathered with page := 12, contributors := [1, 2, 3, 4, 5, 6, 7, 8] }

theorem witness_AllocationServed_gather :
    (∃ t x, (withEntry 0 (order .write wr .active) { live with gather := ⟨[], some t⟩ }).gather.turn = some t ∧ t.span = none
      ∧ t.work ≠ .barrier ∧ (withEntry 0 (order .write wr .active) { live with gather := ⟨[], some t⟩ }).entry? t.entry = some x)
    ∧ (∃ t x, merging.gather.turn = some t ∧ merging.entry? t.entry = some x ∧ t.span = some ⟨768, 16⟩
      ∧ t.bytes = some (List.replicate 16 7) ∧ merging.pool.request = none ∧ (12 = 768 / merging.pageSize x.position)
      ∧ (∀ b, merging.buffer? b = none)
      ∧ (withBuffer 3 full merging).buffer? 3 = some full ∧ full.device = x.position ∧ full.state = .gathering
      ∧ t.entry ∉ full.contributors ∧ 8 ≤ full.contributors.length ∧ x.durable = false
      ∧ ({ x with record := { x.record with flags := 1 } } : Entry).durable = true ∧ t.touched.Nodup ∧ t.joined.Nodup)
    ∧ (requesting.pool.request = some ⟨1, 12, true⟩ ∧ requesting.buffer? 0 = none
      ∧ ∃ y, (withBuffer 3 { full with state := .closed } requesting).buffer? 3 = some y ∧ y.state = .closed ∧ y.device = 1 ∧ y.page = 12)
    ∧ (∀ b, (pressing .gathering true).buffer? b ≠ none) ∧ (∀ b, (pressing .gathering false).buffer? b ≠ none)
    ∧ (∀ b, (pressing .programming false).buffer? b ≠ none)
    ∧ ∃ y, (pressing .gathering false).buffer? 0 = some y ∧ y.state = .gathering :=
  ⟨⟨⟨0, .hostData, none, none, [], []⟩, _, rfl, rfl, by decide, rfl⟩,
    ⟨⟨0, .hostData, some ⟨768, 16⟩, some (List.replicate 16 7), [], []⟩, _, rfl, rfl, rfl, rfl, rfl, rfl, by decide, rfl, rfl, rfl,
      by decide, by decide, by decide, by decide, by decide, by decide⟩,
    ⟨rfl, rfl, _, rfl, rfl, rfl, rfl⟩, by decide, by decide, by decide, _, rfl, rfl⟩

/-- R6, R12: the oldest GATHERING buffer is closed once; a full contributor list closes the buffer of the page. -/
theorem test_pressure :
    ((pressing .gathering false).gatherStep?.map fun t => (t.pool.request, (t.buffer? 0).map (·.state), (t.buffer? 1).map (·.state)))
      = some (some ⟨1, 12, true⟩, some .closed, some .gathering)
    ∧ (let s := withEntry 0 (order .write { wr with flags := 1, lengthLess1 := 15, address := 768 } .active) (withBuffer 3 full merging)
       s.gatherStep?.map fun t => (t.pool.request, (t.buffer? 3).map (·.state))) = some (some ⟨1, 12, false⟩, some .closed) := by
  decide +kernel

/-- A durable WRITE with every result in. -/
def durable : Entry := { order .write { wr with flags := 1 } .held with failedPages := 1, firstFailure := some ⟨1, 31, .verify⟩ }

theorem witness_DurableOrderEnds :
    (withEntry 0 durable live).pins.hrst = false ∧ (withEntry 0 durable live).entry? 0 = some durable ∧ durable.durable = true
    ∧ durable.state = .held ∧ durable.progress = 0
    ∧ ∀ e' y, e' ≠ 0 → (withEntry 0 durable live).entry? e' = some y → y.durable = true → y.state = .held → y.progress = 0 →
      (withEntry 0 durable live).orderAge e' < (withEntry 0 durable live).orderAge 0 := by
  refine ⟨rfl, rfl, by decide, rfl, rfl, fun e' y he hy => ?_⟩
  have : ∀ e : EntryId, e ≠ 0 → (withEntry 0 durable live).entry? e = none := by decide
  rw [this e' he] at hy; cases hy

theorem witness_LoadAndDrainEnd :
    (∃ s : State, s.pins.hrst = false ∧ s.loader.phase = some .wakeRest ∧ s.host.part = .loading ∧ ∀ d, (s.device d).state ≠ .waking)
    ∧ ∃ s : State, s.pins.hrst = false ∧ s.host.part = .draining ∧ (∀ e, s.entry? e = none) ∧ (∀ b, s.buffer? b = none)
      ∧ ∀ t ring slot, s.host.engine = some t → t.job ≠ .orderFetch ring slot :=
  ⟨⟨{ live with host := HostPort.reset, fetch := .reset, loader := { live.loader with phase := some .wakeRest } }, rfl, rfl, rfl, by decide⟩,
    { live with host := { live.host with part := .draining } }, rfl, rfl, by decide, by decide, by rintro _ _ _ ⟨⟩⟩

/-- A durable order that one buffer's result ends. -/
def ending : State := withEntry 0 { durable with progress := 1 } (withBuffer 4 { gathered with contributors := [0], state := .programming } live)

theorem witness_BufferEndGivesResults :
    ∃ y, ending.buffer? 4 = some y ∧ y.contributors.Nodup
      ∧ (∀ e x, e ∈ y.contributors → ending.entry? e = some x → 4 ∉ x.watch)
      ∧ (∀ e x, (ending.endBufferQuiet 4 none).entry? e = some x → ¬ (x.kind = .flush ∧ x.state = .held ∧ x.watch = []))
      ∧ ∀ t, (ending.endBufferQuiet 4 none).gather.turn ≠ some t := by
  refine ⟨{ gathered with contributors := [0], state := .programming }, rfl, by decide, ?_, ?_, ?_⟩
  · intro e x he hx
    obtain rfl : e = 0 := by simpa using he
    cases (show some { durable with progress := 1 } = some x from hx)
    decide
  · intro e x hx h
    have : ∀ e, ((ending.endBufferQuiet 4 none).entry? e).map (·.kind) ≠ some .flush := by decide +kernel
    exact this e (by rw [hx]; simp [h.1])
  · intro t ht
    have : (ending.endBufferQuiet 4 none).gather.turn = none := by decide +kernel
    rw [this] at ht; cases ht

/-- A READ parked on device 1, and a buffer of it. -/
def parked : State :=
  { withEntry 0 (order .read wr .parked) (withBuffer 4 gathered live) with
    reader := { ReadEngine.reset with deferred := (Vector.replicate 8 []).set 1 [0] } }

theorem witness_LostDeviceEndsItsWork :
    (∀ t, parked.gather.turn = some t → t.work ≠ .barrier) ∧ ¬ ((1 : DevicePos) = 0 ∧ parked.loader.phase = some .wake0)
    ∧ (∀ b y, parked.buffer? b = some y → y.device = 1 →
      y.state = .gathering ∨ b ∈ (parked.channel (channelOf 1)).queue ∨ (parked.device 1).slot = some b)
    ∧ (∀ b, (parked.device 1).slot = some b → ∃ y, parked.buffer? b = some y ∧ y.device = 1)
    ∧ ∃ x, 0 ∈ parked.reader.deferred[(1 : DevicePos)] ∧ parked.entry? 0 = some x ∧ parked.gather.turn = none ∧ x.kind = .read
        ∧ x.state = .parked ∧ x.watch = [] ∧ ∀ b y, parked.buffer? b = some y → 0 ∉ y.contributors := by
  have only : ∀ b : BufferId, b ≠ 4 → parked.buffer? b = none := by decide
  have at4 : ∀ b y, parked.buffer? b = some y → b = 4 ∧ y = gathered := by
    intro b y hy
    by_cases hb : b = 4
    · subst hb; cases (show some gathered = some y from hy); exact ⟨rfl, rfl⟩
    · rw [only b hb] at hy; cases hy
  refine ⟨by rintro _ ⟨⟩, by decide, ?_, by rintro _ ⟨⟩, _, by decide, rfl, rfl, rfl, rfl, rfl, ?_⟩
  · intro b y hy _; exact .inl ((at4 b y hy).2 ▸ rfl)
  · intro b y hy; rw [(at4 b y hy).2]; decide

/-- R38, step by step: a parked READ and a WRITE at its turn need device 1; device 0 is in its boot wake. -/
theorem witness_LostDeviceEndsItsWork_steps :
    ((∀ e ∈ [(0 : EntryId)], parked.entry? e ≠ none) ∧ ([] ++ [(0 : EntryId)]).Nodup)
    ∧ (∃ t x, writing.gather.turn = some t ∧ writing.entry? t.entry = some x ∧ t.work ≠ .barrier ∧ x.position = 1)
    ∧ (∀ e y, parked.entry? e = some y → y.kind ≠ .flush)
    ∧ (∃ s : State, s.loader.phase = some .wake0 ∧ ∀ k : DevicePos, k ≠ 0 → s.loader.geometry[k] = none) := by
  refine ⟨⟨by decide, by decide⟩, ⟨⟨0, .hostData, some ⟨1984, 2⟩, none, [], []⟩, _, rfl, rfl, by decide, by decide⟩, ?_,
    { live with loader := { Loader.reset with phase := some .wake0 } }, rfl, by decide⟩
  intro e y hy
  have : ∀ e, (parked.entry? e).map (·.kind) ≠ some .flush := by decide
  intro h; exact this e (by rw [hy]; simp [h])

/-- R38, R105: the WRITE at its turn ends DEVICE_OFFLINE and its transfer's data will be discarded. -/
theorem test_lost_write :
    let t := (writing.newEvent.goOffline 1 .offline)
    ended 0 t = some (.deviceOffline, 0) ∧ t.gather.turn = none ∧ t.host.engine.map (·.givenUp) = some true := by decide +kernel

theorem witness_TimersExpire :
    live.pins.hrst = false
    ∧ (∀ y, live.buffer? 4 = some y → y.state ≠ .gathering ∨ y.linger = none)
    ∧ (∃ y, (withBuffer 4 gathered live).buffer? 4 = some y ∧ y.state = .gathering ∧ y.linger ≠ none)
    ∧ (let s := withDevice 1 { idle with state := .cycling, pollTimer := true, cycleTimer := some 20 } live
       (s.device 1).pollTimer = true ∧ (s.device 1).state = .cycling ∧ (s.device 1).cycleTimer ≠ none)
    ∧ (let s := withDevice 1 { idle with state := .waking, pollTimer := true, wakeLimit := some 20 } live
       (s.device 1).pollTimer = true ∧ (s.device 1).state = .waking ∧ (s.device 1).wakeLimit ≠ none)
    ∧ (let s := withDevice 1 { idle with confirming := true, cycleTimer := some 20 } live
       (s.device 1).state = .idle ∧ (s.device 1).confirming = true ∧ (s.device 1).cycleTimer ≠ none)
    ∧ (live.device 1).pollTimer = false ∧ (live.device 1).wakeLimit = none ∧ (live.device 1).cycleTimer = none :=
  ⟨rfl, by rintro _ ⟨⟩, ⟨gathered, rfl, rfl, by decide⟩, ⟨rfl, rfl, by decide⟩, ⟨rfl, rfl, by decide⟩, ⟨rfl, rfl, by decide⟩, rfl, rfl, rfl⟩

/-- Device 1 awaits its confirming ask, then is polled; its slot holds buffer 4. -/
theorem witness_ProgramStartAndConfirmingAsk :
    (∃ f, (programming (.programStart 4 1986 [0xAA, 0xBB]) idle attempted).pins.hrst = false
      ∧ ((programming (.programStart 4 1986 [0xAA, 0xBB]) idle attempted).channel 0).frame = some f ∧ f.dropped = false
      ∧ channelOf f.device = 0 ∧ f.content = .programStart 4 1986 [0xAA, 0xBB])
    ∧ (∃ f y, ((programming (.ask .confirming) idle attempted).channel 0).frame = some f ∧ f.dropped = false
      ∧ channelOf f.device = 0 ∧ f.content = .ask .confirming
      ∧ ((programming (.ask .confirming) idle attempted).device f.device).slot = some 4
      ∧ (programming (.ask .confirming) idle attempted).buffer? 4 = some y ∧ y.device = f.device)
    ∧ goodAnswer 0xA8 ∧ (0xA8#8).getLsbD 3 = true ∧ goodAnswer 0xA0 ∧ (0xA0#8).getLsbD 3 = false ∧ ¬ goodAnswer 0x58 :=
  ⟨⟨_, rfl, rfl, rfl, rfl, rfl⟩, ⟨_, attempted, rfl, rfl, rfl, rfl, rfl, rfl, rfl⟩, by unfold goodAnswer; decide, by decide,
    by unfold goodAnswer; decide, by decide, by unfold goodAnswer; decide⟩

theorem witness_PollEndsCycle :
    ∃ f y, (programming (.ask .poll) { idle with state := .cycling } attempted).pins.hrst = false
      ∧ ((programming (.ask .poll) { idle with state := .cycling } attempted).channel 0).frame = some f ∧ f.dropped = false
      ∧ channelOf f.device = 0 ∧ f.content = .ask .poll
      ∧ ((programming (.ask .poll) { idle with state := .cycling } attempted).device f.device).slot = some 4
      ∧ (programming (.ask .poll) { idle with state := .cycling } attempted).buffer? 4 = some y ∧ y.device = f.device
      ∧ goodAnswer 0xA2 ∧ (0xA2#8).getLsbD 3 = false ∧ (0xA2#8).getLsbD 1 = true ∧ (0xA0#8).getLsbD 1 = false :=
  ⟨_, attempted, rfl, rfl, rfl, rfl, rfl, rfl, rfl, rfl, by unfold goodAnswer; decide, by decide, by decide, by decide⟩

theorem witness_WakeAndReviveAsks :
    (∃ f, (withFrame 0 1 (.ask .wake) live).pins.hrst = false ∧ ((withFrame 0 1 (.ask .wake) live).channel 0).frame = some f
      ∧ f.dropped = false ∧ channelOf f.device = 0 ∧ f.content = .ask .wake)
    ∧ (∃ f x, ((withEntry 0 (order .revive blank .active) (withFrame 0 1 (.ask (.revive 0)) live)).channel 0).frame = some f
      ∧ f.dropped = false ∧ channelOf f.device = 0 ∧ f.content = .ask (.revive 0)
      ∧ (withEntry 0 (order .revive blank .active) (withFrame 0 1 (.ask (.revive 0)) live)).entry? 0 = some x
      ∧ (live.device f.device).state ≠ .absent)
    ∧ (live.device 2).state = .absent :=
  ⟨⟨_, rfl, rfl, rfl, rfl, rfl⟩, ⟨_, _, rfl, rfl, rfl, rfl, rfl, by decide⟩, rfl⟩

theorem witness_FillAndVerifyReads :
    (∃ f, (programming (.stream (.fillRead 4) 1984 3) idle holed).pins.hrst = false
      ∧ ((programming (.stream (.fillRead 4) 1984 3) idle holed).channel 0).frame = some f ∧ f.dropped = false
      ∧ channelOf f.device = 0 ∧ (programming (.stream (.fillRead 4) 1984 3) idle holed).buffer? 4 = some holed
      ∧ holed.device = f.device ∧ f.content = .stream (.fillRead 4) 1984 3
      ∧ holed.image.findIdx (·.isSome) = 0 ∧ 0 + 3 ≤ holed.image.length)
    ∧ (∃ f, ((programming (.stream (.verifyRead 4) 1986 2) idle attempted).channel 0).frame = some f ∧ f.dropped = false
      ∧ (programming (.stream (.verifyRead 4) 1986 2) idle attempted).buffer? 4 = some attempted ∧ attempted.device = f.device
      ∧ f.content = .stream (.verifyRead 4) 1986 2
      ∧ attempted.image.findIdx (·.isSome) = 2 ∧ 2 + 2 ≤ attempted.image.length
      ∧ 2 = attempted.image.length - attempted.image.reverse.findIdx (·.isSome) - 2)
    ∧ ([0xAA, 0xBB] : List Byte).length = 2 :=
  ⟨⟨_, rfl, rfl, rfl, rfl, rfl, rfl, rfl, by decide, by decide⟩, ⟨_, rfl, rfl, rfl, rfl, rfl, by decide, by decide, by decide⟩, rfl⟩

theorem witness_ProfileCopiesJudgedAndChosen :
    (∃ f, (copying .a).pins.hrst = false ∧ ((copying .a).channel 0).frame = some f ∧ f.dropped = false
      ∧ f.content = .stream (.copyRead .a) (CopyId.start .a) 256)
    ∧ (∃ f, (copying .b).pins.hrst = false ∧ ((copying .b).channel 0).frame = some f ∧ f.dropped = false
      ∧ f.content = .stream (.copyRead .b) (CopyId.start .b) 256)
    ∧ (List.replicate 256 (0xFF : Byte)).length = 256
    ∧ ∀ d : DevicePos, d ≠ 0 → (copying .b).loader.geometry[d] = none :=
  ⟨⟨_, rfl, rfl, rfl, rfl⟩, ⟨_, rfl, rfl, rfl, rfl⟩, by decide +kernel, by decide⟩

set_option maxRecDepth 100000 in
/-- A valid copy, an invalid one, and what the valid one gives. -/
theorem witness_ProfileCopiesJudgedAndChosen_judged :
    profile.length = 256 ∧ CopyValid .two profile ∧ ¬ CopyValid .three profile ∧ ¬ CopyValid .two (List.replicate 256 0xFF) := by
  have h : profile.length = 256 := by decide +kernel
  have h1 : judgeCopy .two profile ≠ none := by decide +kernel
  have h2 : judgeCopy .three profile = none := by decide +kernel
  have h3 : judgeCopy .two (List.replicate 256 0xFF) = none := by decide +kernel
  exact ⟨h, not_not.1 fun hv => h1 ((judgeCopy_spec .two profile h).1.2 hv), (judgeCopy_spec .three profile h).1.1 h2,
    (judgeCopy_spec .two _ (by decide +kernel)).1.1 h3⟩

theorem witness_UnusedResultsDiscarded :
    (∃ x, (withBus { oneWord (.writeData 0) with givenUp := true } live).Live
      ∧ (withBus { oneWord (.writeData 0) with givenUp := true } live).host.engine = some x ∧ x.givenUp = true ∧ x.job = .writeData 0
      ∧ x.mayEndRead (.complete [0]) = true ∧ x.mayEndRead (.hostFault .abort) = true)
    ∧ (∃ x, (withBus { oneWord (.readData 0) with givenUp := true } live).host.engine = some x ∧ x.givenUp = true ∧ x.job = .readData 0
      ∧ x.mayEndWrite .complete = true)
    ∧ ∃ f, ((live.mapChannel 0 fun c => { c with frame := some ⟨1, .ask .poll, .two, true⟩ }).channel 0).frame = some f ∧ f.dropped = true
      ∧ f.content = .ask .poll :=
  ⟨⟨_, ⟨rfl, rfl⟩, rfl, rfl, rfl, by decide, by decide⟩, ⟨_, rfl, rfl, rfl, by decide⟩, _, rfl, rfl, rfl⟩

/-! The invariants hold of a part that runs, with a command that waits. -/

/-- A running part with a gathering buffer and a fetch waiting to end. -/
def running : State := { withBuffer 4 gathered fetching with pending := [.grdChange true] }

theorem running_steps : ∃ t, step running = .next t := ⟨_, rfl⟩

theorem witness_IntreqFollowsEveryStep : running.IntreqFollows ∧ (∃ t, step running = .next t) ∧ live.Live ∧ live.host.engine = none := by
  refine ⟨⟨fun h => (by cases h), ?_⟩, running_steps, live_live, rfl⟩
  rintro (⟨h, -⟩ | ⟨h, -⟩) <;> cases h

theorem witness_HostSideStaysTogether : running.HostOk ∧ ∃ t, step running = .next t := by
  refine ⟨⟨(by rintro ⟨⟩), (by decide : 0 < 8 ∧ 0 < 8 ∧ 0 < 8 ∧ 0 < 8 ∧ 0 < 16 ∧ 0 < 16), rfl, by decide, (by rintro ⟨⟩), ?_, (by rintro ⟨⟩), ?_⟩,
    running_steps⟩
  · rintro ⟨t, ht, hj⟩; cases ht; cases hj
  · rintro (h | h) <;> cases h

theorem witness_PoolStaysTogether : running.PoolOk ∧ ∃ t, step running = .next t := by
  have only : ∀ b : BufferId, b ≠ 4 → running.buffer? b = none := by decide
  have at4 : ∀ b y, running.buffer? b = some y → b = 4 ∧ y = gathered := by
    intro b y hy
    by_cases hb : b = 4
    · subst hb; cases (show some gathered = some y from hy); exact ⟨rfl, rfl⟩
    · rw [only b hb] at hy; cases hy
  exact ⟨⟨fun b b' y y' h h' _ _ _ _ => (at4 b y h).1.trans (at4 b' y' h').1.symm, by rintro _ ⟨⟩,
    fun b y h => by rw [(at4 b y h).2]; decide, by decide, by decide⟩, running_steps⟩

theorem witness_EntryIdentityNeverChanges :
    ∃ x t, (withEntry 0 (order .read wr .waiting) live).entry? 0 = some x
      ∧ exec (.grdChange true) (withEntry 0 (order .read wr .waiting) live) = .next t ∧ (Instr.grdChange true).isReset = false
      ∧ (withEntry 0 (order .read wr .waiting) live).host.resetPending = false
      ∧ ∀ h, (withEntry 0 (order .read wr .waiting) live).host.engine ≠ some h :=
  ⟨_, _, rfl, rfl, rfl, rfl, by rintro _ ⟨⟩⟩

/-- A GUARDED zone entry with the guard line asserted. -/
def guarded : State := { live with zones := ⟨(Vector.replicate 16 none).set 4 (some ⟨1, 20, 29, .guardedZone⟩), true⟩ }

theorem witness_GuardedZoneStays :
    ∃ t, guarded.zones.guard = true ∧ guarded.zones.entries[(4 : ZoneIndex)] = some ⟨1, 20, 29, .guardedZone⟩
      ∧ exec (.intEnable true) guarded = .next t ∧ (Instr.intEnable true).isReset = false ∧ guarded.host.resetPending = false
      ∧ (∀ bw, Instr.intEnable true ≠ .hrstRelease bw) ∧ guarded.loader.phase ≠ some .wake0
      ∧ ∀ bytes, Instr.intEnable true ≠ .copyBReadEnd bytes :=
  ⟨_, rfl, by decide, rfl, rfl, rfl, by simp, by decide, by simp⟩

theorem witness_HaltedAndFlagsStay :
    ∃ (s t : State), exec (.intEnable true) s = .next t ∧ (Instr.intEnable true).isReset = false ∧ s.host.resetPending = false
      ∧ (∀ bw, Instr.intEnable true ≠ .hrstRelease bw) ∧ s.host.part = .halted ∧ s.host.engine = none
      ∧ (∀ v, Instr.intEnable true ≠ .faultWrite v) ∧ s.flag .haltFetch = true :=
  ⟨{ live with host := { live.host with part := .halted, fault := 0b10 } }, _, rfl, rfl, rfl, by simp, rfl, rfl, by simp, by decide⟩

theorem witness_SlotAndSetupRoundTrip :
    ((Instr.write wr).wellFormed = true ∧ ∃ w, encodeSlot (.write wr) = some w)
    ∧ (0x80000000#32).getLsbD 31 = true ∧ (0x7FFFFFFF#32).getLsbD 31 = false ∧ (1#32).getLsbD 0 = true
    ∧ (0b0111#4 : BitVec 4) ≠ 0b1111 := ⟨⟨rfl, _, rfl⟩, by decide, by decide, by decide, by decide⟩

/-- 11.1, 11.3: the 32 bytes 01h to 20h, field by field. -/
theorem test_offsets :
    let w : Vector Word 8 := #v[0x04030201, 0x08070605, 0x0C0B0A09, 0x100F0E0D, 0x14131211, 0x18171615, 0x1C1B1A19, 0x201F1E1D]
    OrderRecord.ofWords w = ⟨0x0201, 0x04, 0x05, 0x06, 0x0807, 0x0C0B0A09, 0x100F0E0D, 0x1817161514131211, 0x201F1E1D1C1B1A19⟩
    ∧ kindByte w = 3
    ∧ SetupBlock.ofWords w = ⟨0x04030201, 0x08070605, 0x0C0B0A09, 0x0E0D, 0x100F, 0x1211, 0x13, 0x14, 0x201F1E1D1C1B1A1918171615⟩ := by
  decide +kernel

theorem witness_StoredProfileIsValidCopy :
    (7 : BitVec 32) ≠ 0 ∧ geometryLegal live.loader.geometry = true
    ∧ (live.loader.geometry[(0 : DevicePos)]).map (·.width) = some .two
    ∧ ∀ (i : ZoneIndex) (z : Zone), (Vector.replicate 16 (none : Option Zone))[i] = some z → z.first ≤ z.last := by
  refine ⟨by decide, by decide, by decide, fun i z h => ?_⟩
  have : ∀ i : ZoneIndex, (Vector.replicate 16 (none : Option Zone))[i] = none := by decide
  rw [this] at h; cases h

end Sys2Proof.Tests
end

section
/-! PROOFS. Acceptance (R70 to R76): the table of R73 as the model checks it, what filling an entry and handing an order on change,
and the obligation RecordsAcceptedOrRefused. -/

namespace Sys2Proof

open Machine

/-! ### The payload of a record -/

/-- Byte `i` of the payload, as the model and as R73 read it. -/
theorem OrderRecord.byteAt_payloadBytes (r : OrderRecord) (i : Nat) (hi : i < 8) :
    byteAt r.payloadBytes i = r.payload.extractLsb' (8 * i) 8 := by
  have hl : (leBytes 8 r.payload.toNat)[i]? = some (BitVec.ofNat 8 (r.payload.toNat / 256 ^ i)) := by
    simp [leBytes, List.getElem?_range hi]
  rw [byteAt, OrderRecord.payloadBytes, List.getD_eq_getElem?_getD, hl]
  apply BitVec.eq_of_toNat_eq
  simp [BitVec.extractLsb'_toNat, Nat.shiftRight_eq_div_pow, Nat.pow_mul]

/-- The two-byte field at byte `i` of the payload, as the model and as R73 read it. -/
theorem OrderRecord.fieldAt_payloadBytes (r : OrderRecord) (i : Nat) (hi : i + 1 < 8) :
    fieldAt r.payloadBytes i 2 = (r.payload.extractLsb' (8 * i) 16).toNat := by
  have hlen : r.payloadBytes.length = 8 := by simp [OrderRecord.payloadBytes, leBytes]
  have hbytes : fieldAt r.payloadBytes i 2 = (byteAt r.payloadBytes i).toNat + 256 * (byteAt r.payloadBytes (i + 1)).toNat := by
    rw [fieldAt, List.drop_eq_getElem_cons (by omega), List.drop_eq_getElem_cons (by omega)]
    simp only [List.take_succ_cons, List.take_zero, ofLeBytes, byteAt, List.getD_eq_getElem?_getD]
    simp [hlen, hi, Nat.lt_of_succ_lt hi]
  rw [hbytes, r.byteAt_payloadBytes i (by omega), r.byteAt_payloadBytes (i + 1) hi]
  simp only [BitVec.extractLsb'_toNat, Nat.shiftRight_eq_div_pow]
  rw [Nat.mul_add, Nat.pow_add, ← Nat.div_div_eq_div_mul]
  omega

/-- R73, row "zone entry": the model reads a zone from the payload exactly where the row does not refuse. -/
theorem OrderRecord.zone_isSome (r : OrderRecord) : r.zone.isSome = true ↔
    ¬ (r.payload.getLsbD 0 = true ∧ (7 < (r.payload.extractLsb' (8 * 1) 8).toNat ∨ 2 < (r.payload.extractLsb' (8 * 6) 8).toNat
      ∨ (r.payload.extractLsb' (8 * 4) 16).toNat < (r.payload.extractLsb' (8 * 2) 16).toNat)) := by
  have hvalid : r.payload.getLsbD 0 = (byteAt r.payloadBytes 0).getLsbD 0 := by
    rw [r.byteAt_payloadBytes 0 (by omega)]; simp
  rw [hvalid, ← r.byteAt_payloadBytes 1 (by omega), ← r.byteAt_payloadBytes 6 (by omega),
    ← r.fieldAt_payloadBytes 2 (by omega), ← r.fieldAt_payloadBytes 4 (by omega), Option.isSome_iff_exists]
  unfold OrderRecord.zone
  generalize r.payloadBytes = z
  simp only [parseZone_some]
  constructor
  · rintro ⟨_, ⟨hclear, -⟩ | ⟨-, x, -, hdev, hfirst, hlast, hle, hmode⟩⟩ ⟨hset, hbad⟩
    · rw [hclear] at hset; cases hset
    · have hcode : (byteAt z 6).toNat ≤ 2 := (zoneModeCode_iff z).1 ⟨x.mode, hmode⟩
      omega
  · intro h
    cases hbit : (byteAt z 0).getLsbD 0 with
    | false => exact ⟨none, .inl ⟨rfl, rfl⟩⟩
    | true =>
      simp only [hbit, true_and, not_or, not_lt] at h
      obtain ⟨hdev, hcode, hle⟩ := h
      obtain ⟨m, hmode⟩ := (zoneModeCode_iff z).2 hcode
      exact ⟨some ⟨⟨_, Nat.lt_succ_of_le hdev⟩, _, _, m⟩, .inr ⟨rfl, _, rfl, rfl, rfl, rfl, hle, hmode⟩⟩

/-- R183: every page size code up to 4 names a size. -/
theorem Machine.PageSize.exists_bytes (c : Nat) (h : c ≤ 4) : ∃ p : PageSize, p.bytes = 16 * 2 ^ c := by
  have hc : c = 0 ∨ c = 1 ∨ c = 2 ∨ c = 3 ∨ c = 4 := by omega
  rcases hc with rfl | rfl | rfl | rfl | rfl
  · exact ⟨.b16, rfl⟩
  · exact ⟨.b32, rfl⟩
  · exact ⟨.b64, rfl⟩
  · exact ⟨.b128, rfl⟩
  · exact ⟨.b256, rfl⟩

/-- R183: the address width codes 2 and 3 name a width. -/
theorem Machine.AddressWidth.exists_bytes (c : Nat) (h : c = 2 ∨ c = 3) : ∃ w : AddressWidth, w.bytes = c := by
  rcases h with rfl | rfl
  · exact ⟨.two, rfl⟩
  · exact ⟨.three, rfl⟩

/-- R73, row "geometry": the model reads a geometry from the payload exactly where the row does not refuse. -/
theorem OrderRecord.geometry_isSome (r : OrderRecord) :
    let payload (i : Nat) : Nat := (r.payload.extractLsb' (8 * i) 8).toNat
    r.geometry.isSome = true ↔ ¬ (1 < payload 0 ∨ (payload 0 = 1 ∧
      (4 < payload 1 ∨ (payload 4 ≠ 2 ∧ payload 4 ≠ 3) ∨ payload 5 = 0))) := by
  simp only
  rw [← r.byteAt_payloadBytes 0 (by omega), ← r.byteAt_payloadBytes 1 (by omega), ← r.byteAt_payloadBytes 4 (by omega),
    ← r.byteAt_payloadBytes 5 (by omega), Option.isSome_iff_exists]
  unfold OrderRecord.geometry
  generalize r.payloadBytes = g
  simp only [parseGeometry_some]
  constructor
  · rintro ⟨_, ⟨habsent, -⟩ | ⟨hpresent, hsize, htimeout, hwidth, -⟩⟩
    all_goals bv_omega
  · intro h
    by_cases habsent : byteAt g 0 = 0
    · exact ⟨none, .inl ⟨habsent, rfl⟩⟩
    · have hpresent : byteAt g 0 = 1 := by bv_omega
      have hsize : (byteAt g 1).toNat ≤ 4 := by bv_omega
      have htimeout : byteAt g 5 ≠ 0 := by bv_omega
      have hwidth : byteAt g 4 = 2 ∨ byteAt g 4 = 3 := by bv_omega
      obtain ⟨p, hp⟩ := PageSize.exists_bytes _ hsize
      obtain ⟨w, hw⟩ := AddressWidth.exists_bytes (byteAt g 4).toNat (by bv_omega)
      exact ⟨some ⟨p, _, w, _⟩, .inr ⟨hpresent, hsize, htimeout, hwidth, _, rfl, hp, rfl, hw, rfl⟩⟩

end Sys2Proof

namespace Sys2Proof.Machine

/-! ### The table of R73 -/

/-- R183: a kind code names none of the ten kinds, or it is the code of one. -/
theorem kindCode_cases (code : Byte) :
    (code.toNat = 0 ∨ 10 < code.toNat) ∨ code = 1 ∨ code = 2 ∨ code = 3 ∨ code = 4 ∨ code = 5 ∨ code = 6 ∨ code = 7 ∨ code = 8
      ∨ code = 9 ∨ code = 10 := by
  bv_omega

theorem Kind.ofCode_unknown (code : Byte) (h : code.toNat = 0 ∨ 10 < code.toNat) : Kind.ofCode code = .unknown code := by
  unfold Kind.ofCode
  split
  case h_11 => rfl
  all_goals omega

/-- R73: the model's acceptance checks are the table of refusals. One case for the codes that name no kind, then one for each
kind in the order of R183. -/
theorem acceptable_iff_not_refused (code : Byte) (r : OrderRecord) :
    acceptable (Kind.ofCode code) r = true ↔ ¬ Refused code r := by
  unfold acceptable commonChecks kindChecks OrderRecord.length Refused
  rcases kindCode_cases code with hunknown | rfl | rfl | rfl | rfl | rfl | rfl | rfl | rfl | rfl | rfl
  · simp [Kind.ofCode_unknown code hunknown, hunknown]
  · simp [Kind.ofCode, and_assoc, and_comm, and_left_comm]
  · simp [Kind.ofCode, and_assoc, and_comm, and_left_comm]
  · simp [Kind.ofCode, and_assoc]
  · have hall : r.allDevices = true ↔ r.device.toNat = 15 := by simp [OrderRecord.allDevices, ← BitVec.toNat_inj]
    simp [Kind.ofCode, and_assoc, hall, or_iff_not_imp_left]
  · simp [Kind.ofCode, and_assoc]
  · simp [Kind.ofCode, and_assoc, r.zone_isSome]
  · simp [Kind.ofCode, and_assoc, r.geometry_isSome]
  · simp [Kind.ofCode]
  · simp [Kind.ofCode, and_assoc]
  · simp [Kind.ofCode, and_assoc]

/-! ### Filling an entry -/

theorem State.entry_putEntry (s : State) (e e' : EntryId) (x : Entry) :
    (s.putEntry e x).entry? e' = if e' = e then some x else s.entry? e' := by
  by_cases h : e' = e
  · subst h; simp [State.putEntry, State.entry?]
  · have hval : (e : Nat) ≠ e' := fun k => h (Fin.ext k.symm)
    simp [State.putEntry, State.entry?, h, hval]

/-- R71: the free entry with the lowest index. -/
theorem State.lowestFreeEntry_is (s : State) (e : EntryId) (hfree : s.entry? e = none)
    (hlower : ∀ e', e' < e → s.entry? e' ≠ none) : s.lowestFreeEntry = some e := by
  rw [State.lowestFreeEntry, ← Fin.find?_eq_find?_finRange, Fin.find?_eq_some_iff]
  exact ⟨by simp [hfree], fun e' h => by simpa [Option.isSome_iff_ne_none] using hlower e' h⟩

/-- R171: Ring Fetch after the head of one of its configured rings advanced. -/
def RingFetch.advanced (f : RingFetch) (cfg : RingConfig) : RingId → RingFetch
  | .normal => { f with normalHead := (f.normalHead + 1) % cfg.normal.size }
  | .urgent => { f with urgentHead := (f.urgentHead + 1) % cfg.urgent.size }

theorem State.advanceHead_eq (s : State) (ring : RingId) (cfg : RingConfig) (h : s.fetch.config = some cfg) :
    s.advanceHead ring = { s with fetch := s.fetch.advanced cfg ring } := by
  cases ring <;> simp [State.advanceHead, RingFetch.size?, RingFetch.advanced, ringNext, h]

/-- R71, R171: the fetch has ended: the engine is idle and the head of the ring is advanced. -/
def State.fetched (s : State) (cfg : RingConfig) (ring : RingId) : State :=
  { s with host := { s.host with engine := none }, fetch := s.fetch.advanced cfg ring }

/-- R72, R75: the record stands in entry `e` with the counter's value, and the counter is advanced. -/
def State.numbered (s : State) (e : EntryId) (ring : RingId) (slot : Nat) (k : Kind) (r : OrderRecord) : State :=
  let v := s.putEntry e (.ofRecord ring slot k r (some s.orders.sequence))
  { v with orders := { v.orders with sequence := v.orders.sequence + 1 } }

/-- R72 to R74: acceptance into the lowest free entry `e`. -/
theorem State.acceptRecord_eq (s : State) (ring : RingId) (slot : Nat) (k : Kind) (r : OrderRecord)
    (handOn : EntryId → State → State) (cfg : RingConfig) (e : EntryId) (hcfg : s.fetch.config = some cfg)
    (hfree : s.entry? e = none) (hlower : ∀ e', e' < e → s.entry? e' ≠ none) :
    s.acceptRecord ring slot k r handOn =
      if acceptable k r then handOn e ((s.fetched cfg ring).numbered e ring slot k r)
      else ((s.fetched cfg ring).putEntry e (.ofRecord ring slot k r none)).goDone e (.plain .badOrder 0) := by
  have hfetched : (s.setEngine none).advanceHead ring = s.fetched cfg ring := State.advanceHead_eq _ _ _ hcfg
  have hlowest : (s.fetched cfg ring).lowestFreeEntry = some e := State.lowestFreeEntry_is _ _ hfree hlower
  simp only [State.acceptRecord, hfetched, hlowest]
  rfl

/-! ### Handing on -/

/-- Order `e` has not ended BAD_ORDER. -/
def State.NotBadOrder (s : State) (e : EntryId) : Prop :=
  ∀ y, s.entry? e = some y → ∀ z, y.result = some z → z.status ≠ .badOrder

/-- What the handing on of an order leaves: the part's `Kept`, the counter and every entry's identity in it; and no order ends
BAD_ORDER. -/
structure State.HandsOn (s u : State) : Prop where
  kept : u.kept = s.kept
  notBadOrder : ∀ e, s.NotBadOrder e → u.NotBadOrder e

theorem State.HandsOn.trans {s u v : State} (h : s.HandsOn u) (h' : u.HandsOn v) : s.HandsOn v :=
  ⟨h'.kept.trans h.kept, fun e hs => h'.notBadOrder e (h.notBadOrder e hs)⟩

/-- Handing on that leaves the Order Table alone. -/
theorem State.handsOn_of_orders {s u : State} (hkept : u.kept = s.kept) (horders : u.orders = s.orders) : s.HandsOn u :=
  ⟨hkept, fun e h => by rw [State.NotBadOrder, State.entry?, horders]; exact h⟩

theorem State.handsOn_goDone (s : State) (e : EntryId) (st : Status) (n : Nat) (hst : st ≠ .badOrder) :
    s.HandsOn (s.goDone e (.plain st n)) := by
  refine ⟨s.kept_goDone _ _, fun e' h y hy z hz => ?_⟩
  rw [State.entry_goDone] at hy
  split at hy
  · obtain ⟨x, -, rfl⟩ := Option.map_eq_some_iff.1 hy
    cases hz
    exact hst
  · exact h y hy z hz

theorem State.handsOn_makeActive (s : State) (e : EntryId) :
    s.HandsOn (s.mapEntry e fun x => { x with state := .active }) := by
  refine ⟨s.kept_mapEntry _ _ fun _ => rfl, fun e' h y hy z hz => ?_⟩
  rw [State.entry_mapEntry] at hy
  split at hy
  · next heq =>
    obtain ⟨x, hx, rfl⟩ := Option.map_eq_some_iff.1 hy
    exact h x (heq ▸ hx) z hz
  · exact h y hy z hz

/-- R86: an order that a CANCEL removes ends CANCELLED. -/
theorem State.handsOn_cancelOne (s : State) (e : EntryId) : s.HandsOn (s.cancelOne e) := by
  refine State.HandsOn.trans ?_ (State.handsOn_goDone _ e .cancelled 0 (by decide))
  exact State.handsOn_of_orders rfl rfl

theorem State.handsOn_cancelAll (l : List EntryId) (s : State) : s.HandsOn (l.foldl State.cancelOne s) := by
  induction l generalizing s with
  | nil => exact ⟨rfl, fun _ h => h⟩
  | cons e l ih => exact (s.handsOn_cancelOne e).trans (ih _)

/-- R86: a CANCEL ends OK. -/
theorem handsOn_carryOutCancel (r : OrderRecord) (e : EntryId) (s : State) : s.HandsOn (carryOutCancel r e s) :=
  (s.handsOn_makeActive e).trans ((State.handsOn_cancelAll _ _).trans (State.handsOn_goDone _ e .ok _ (by decide)))

/-- R88: a REVIVE ends NO_DEVICE or OK, or waits for its ask. -/
theorem handsOn_handToRevive (r : OrderRecord) (e : EntryId) (s : State) : s.HandsOn (handToRevive r e s) := by
  unfold handToRevive
  split
  · exact s.handsOn_goDone e .noDevice 0 (by decide)
  · exact (s.handsOn_makeActive e).trans (State.handsOn_of_orders rfl rfl)
  all_goals exact s.handsOn_goDone e .ok 0 (by decide)

/-- R89: a REPORT waits for its store. -/
theorem handsOn_takeReport (e : EntryId) (s : State) : s.HandsOn (takeReport e s) :=
  (s.handsOn_makeActive e).trans (State.handsOn_of_orders rfl rfl)

/-! ### The fetched orders as commands -/

/-- R76: a command that has a slot is the acceptance of its record, with some handing on. -/
theorem exec_of_slot (c : Instr) (code : Byte) (r : OrderRecord) (hslot : c.slot? = some (code, r)) (hwf : c.wellFormed = true) :
    ∃ handOn : EntryId → State → State, (∀ e (s : State), s.HandsOn (handOn e s))
      ∧ ∀ s, exec c s = s.accept (Kind.ofCode code) r handOn := by
  have hreader (e : EntryId) (s : State) : s.HandsOn (handToReader e s) := State.handsOn_of_orders rfl rfl
  have hgather (e : EntryId) (s : State) : s.HandsOn (handToGather e s) := State.handsOn_of_orders rfl rfl
  cases c with
  | read r => cases hslot; exact ⟨_, hreader, fun _ => rfl⟩
  | write r => cases hslot; exact ⟨_, hgather, fun _ => rfl⟩
  | fill r => cases hslot; exact ⟨_, hgather, fun _ => rfl⟩
  | flush r => cases hslot; exact ⟨_, hgather, fun _ => rfl⟩
  | setZone r => cases hslot; exact ⟨_, hgather, fun _ => rfl⟩
  | setGeometry r => cases hslot; exact ⟨_, hgather, fun _ => rfl⟩
  | storeProfile r => cases hslot; exact ⟨_, hgather, fun _ => rfl⟩
  | cancel r => cases hslot; exact ⟨_, handsOn_carryOutCancel r, fun _ => rfl⟩
  | revive r => cases hslot; exact ⟨_, handsOn_handToRevive r, fun _ => rfl⟩
  | report r => cases hslot; exact ⟨_, handsOn_takeReport, fun _ => rfl⟩
  | unknownKind code r =>
    cases hslot
    have hcode : code = 0 ∨ 11 ≤ code.toNat := by simpa [Instr.wellFormed, kindCodeUnknown] using hwf
    rw [Kind.ofCode_unknown code (by bv_omega)]
    exact ⟨_, fun _ _ => ⟨rfl, fun _ h => h⟩, fun _ => rfl⟩
  | _ => cases hslot

/-- R71: with its fetch on the bus, the event of a fetched order is its acceptance. -/
theorem State.accept_answers (s : State) (x : Transfer) (ring : RingId) (slot : Nat) (k : Kind) (r : OrderRecord)
    (handOn : EntryId → State → State) (hlive : s.Live) (hbus : s.host.engine = some x) (hjob : x.job = .orderFetch ring slot) :
    s.accept k r handOn = .next (s.newEvent.acceptRecord ring slot k r handOn).conclude := by
  refine State.react_some _ _ _ hlive.1 ?_
  rw [State.onBus_some s x _ _ hbus (by rw [hjob]; rfl) rfl, Option.map_some, State.burstEnd_live s.newEvent _ hlive.2, hjob]

/-! ### Refused, or accepted -/

theorem State.entry_identity_of_kept {s u : State} (h : u.kept = s.kept) (e : EntryId) :
    (u.entry? e).map Entry.identity = (s.entry? e).map Entry.identity := by
  have hids := congrArg (fun k => k.identities[e]) h
  simpa [State.kept, State.entry?] using hids

/-- R74: a refused order is DONE with BAD_ORDER and no number. -/
theorem State.refuse_endsOrder (s : State) (e : EntryId) (ring : RingId) (slot : Nat) (k : Kind) (r : OrderRecord)
    (h1 : s.startedGather = []) (h2 : s.startedRead = []) :
    let x := Entry.ofRecord ring slot k r none
    (s.putEntry e x).EndsOrder ((s.putEntry e x).goDone e (.plain .badOrder 0)) e x ⟨.badOrder, 0, none⟩ :=
  State.goDone_endsOrder _ e _ _ (by rw [State.entry_putEntry, if_pos rfl]) h1 h2

/-- R72, R75: an accepted order has the counter's value however it is handed on, and is not refused. -/
theorem State.handOn_numbered (s u : State) (e : EntryId) (ring : RingId) (slot : Nat) (k : Kind) (r : OrderRecord)
    (h : (s.numbered e ring slot k r).HandsOn u) :
    (∃ y, u.entry? e = some y ∧ y.identity = ⟨ring, slot, k, r, some s.orders.sequence⟩
      ∧ ∀ z, y.result = some z → z.status ≠ .badOrder)
    ∧ u.orders.sequence = s.orders.sequence + 1 ∧ u.fetch = s.fetch := by
  have hentry : (s.numbered e ring slot k r).entry? e = some (.ofRecord ring slot k r (some s.orders.sequence)) :=
    (s.entry_putEntry e e _).trans (if_pos rfl)
  have hnot : (s.numbered e ring slot k r).NotBadOrder e := by
    intro y hy z hz
    rw [hentry] at hy
    cases hy
    cases hz
  have hid := State.entry_identity_of_kept h.kept e
  rw [hentry] at hid
  obtain ⟨y, hy, hident⟩ := Option.map_eq_some_iff.1 hid
  exact ⟨⟨y, hy, hident, h.notBadOrder e hnot y hy⟩, congrArg Kept.sequence h.kept, congrArg Kept.fetch h.kept⟩

/-- Settles O26: the command is the acceptance of its record; the model's checks are the table of R73; then the two branches. -/
theorem recordsAcceptedOrRefused : Obligations.RecordsAcceptedOrRefused := by
  intro c code r s x ring slot cfg e hslot hwf hlive hbus hjob hcfg hfree hlower
  obtain ⟨handOn, hhands, hexec⟩ := exec_of_slot c code r hslot hwf
  have hanswer := (hexec s).trans (s.accept_answers x ring slot _ r handOn hlive hbus hjob)
  rw [s.newEvent.acceptRecord_eq ring slot _ r handOn cfg e hcfg hfree hlower] at hanswer
  by_cases hrefused : Refused code r
  · have hbad : ¬ acceptable (Kind.ofCode code) r = true := fun h => (acceptable_iff_not_refused code r).1 h hrefused
    rw [if_neg hbad] at hanswer
    have hends := (s.newEvent.fetched cfg ring).refuse_endsOrder e ring slot (Kind.ofCode code) r rfl rfl
    have hframe := ((s.newEvent.fetched cfg ring).putEntry e (.ofRecord ring slot (Kind.ofCode code) r none)).goDone_frame e
      (.plain .badOrder 0)
    refine ⟨_, hanswer, ?_, fun _ => ⟨?_, ⟨_, hends.entry, rfl, rfl, rfl⟩, hends.done, hends.sequence, fun e' hne => ?_⟩,
      fun h => absurd hrefused h⟩
    · rw [hframe]; cases ring <;> rfl
    · rw [hframe]; rfl
    · rw [hends.others e' hne, State.entry_putEntry, if_neg hne]; rfl
  · rw [if_pos ((acceptable_iff_not_refused code r).2 hrefused)] at hanswer
    obtain ⟨hentry, hsequence, hfetch⟩ := State.handOn_numbered _ _ e ring slot _ r (hhands e _)
    refine ⟨_, hanswer, ?_, fun h => absurd h hrefused, fun _ => ⟨hentry, hsequence⟩⟩
    rw [hfetch]
    cases ring <;> rfl

end Sys2Proof.Machine
end

section
/-! PROOFS. INTREQ (R174): what a local reset and the event around it leave, what each command makes of the line, and the obligation
IntreqFollowsEveryStep. -/

namespace Sys2Proof.Machine

/-! ### A local reset as an event -/

/-- R163: with the engine idle, a LOCAL_RESET happens in its own event. -/
theorem State.localReset_answers (s : State) (ie fe bw : Bool) (hlive : s.Live) (hidle : s.host.engine = none) :
    exec (.localReset ie fe bw) s = .next ((s.newEvent.takeEnables ie fe).setBW bw).localReset.conclude := by
  rw [exec, execLocalReset]
  exact State.react_some _ _ _ hlive.1 (by simp [hlive.2, hidle])

/-- R163: a pending local reset happens in the event in which the burst in progress ends. -/
theorem State.localResetAtBurstEnd_answers (s : State) (x : Transfer) (bw : Bool) (hrst : s.pins.hrst = false)
    (hpending : s.host.resetPending = true) (hbus : s.host.engine = some x) :
    exec (.localResetAtBurstEnd bw) s = .next (s.newEvent.setBW bw).localReset.conclude := by
  rw [exec, execLocalResetAtBurstEnd]
  exact State.react_some _ _ _ hrst (by simp [hpending, hbus])

/-! ### What follows a reset in its event -/

/-- The part in the event that begins LOADING: no engine has an order or a buffer to act on, and the only work that waits is the wake
ask of the boot wake (R147). -/
structure State.OnlyBootAsk (s : State) : Prop where
  loading : s.host.part = .loading
  phase : s.loader.phase = some .wake0
  gather : s.gather = GatherEngine.reset
  reader : s.reader = ReadEngine.reset
  queues : ∀ c, (s.channel c).queue = []
  waiting : ∀ c, ∀ i ∈ (s.channel c).waiting, i.work = .ask .wake

/-- A change of a channel that queues nothing but wake asks. -/
theorem State.OnlyBootAsk.mapChannel {s : State} (h : s.OnlyBootAsk) (c : ChannelId) (f : ChannelEngine → ChannelEngine)
    (hqueue : (f (s.channel c)).queue = []) (hwaiting : ∀ i ∈ (f (s.channel c)).waiting, i.work = .ask .wake) :
    (s.mapChannel c f).OnlyBootAsk where
  loading := h.loading
  phase := h.phase
  gather := h.gather
  reader := h.reader
  queues c' := by
    rw [State.channel_mapChannel]
    split
    · next heq => exact heq ▸ hqueue
    · exact h.queues c'
  waiting c' := by
    rw [State.channel_mapChannel]
    split
    · next heq => exact heq ▸ hwaiting
    · exact h.waiting c'

/-- R147: a local reset leaves the boot wake's ask on channel 0 and no other work. -/
theorem State.localReset_channel (s : State) (c : ChannelId) :
    s.localReset.channel c = { ChannelEngine.reset with waiting := if c = 0 then [⟨0, .ask .wake, s.event⟩] else [] } := by
  match c with
  | 0 => rfl
  | 1 => rfl

/-- R147: the event of a local reset begins so. -/
theorem State.localReset_onlyBootAsk (s : State) : s.localReset.OnlyBootAsk where
  loading := rfl
  phase := rfl
  gather := rfl
  reader := rfl
  queues c := by rw [s.localReset_channel]; rfl
  waiting c i hi := by
    rw [s.localReset_channel] at hi
    dsimp only at hi
    split at hi
    · rw [List.mem_singleton.1 hi]
    · cases hi

theorem State.gatherStep_none (s : State) (h : s.gather = GatherEngine.reset) : s.gatherStep? = none := by
  simp [State.gatherStep?, State.headToStart, h, GatherEngine.reset]

theorem State.readStep_none (s : State) (h : s.reader = ReadEngine.reset) : s.readStep? = none := by
  simp [State.readStep?, State.readToResume, State.readToStart, h, ReadEngine.reset, oldestBy]

theorem State.takeStep_none (s : State) (c : ChannelId) (h : (s.channel c).queue = []) : s.takeStep? c = none := by
  simp [State.takeStep?, h]

/-- R41: the grant of a wake ask begins its frame, and the host side is not concerned. -/
theorem State.OnlyBootAsk.grantStep {s t : State} (h : s.OnlyBootAsk) (c : ChannelId) (ht : s.grantStep? c = some t) :
    t.OnlyBootAsk ∧ t.host = s.host := by
  unfold State.grantStep? at ht
  split at ht
  · cases ht
  · obtain ⟨i, hfirst, rfl⟩ := Option.map_eq_some_iff.1 ht
    have hmem := (firstItem_some _ _ i hfirst).1
    have hwake : i.work = .ask .wake := h.waiting c i (List.mem_filter.1 hmem).1
    have hact : s.actOnItem c i = (s.grantItem c i).beginFrame c i.device (.ask .wake) := by
      simp [State.actOnItem, hwake]
    have hremoved : (s.removeItem c i).OnlyBootAsk :=
      h.mapChannel c _ (h.queues c) fun j hj => h.waiting c j (List.mem_of_mem_erase hj)
    have hgranted : (s.grantItem c i).OnlyBootAsk := hremoved.mapChannel c _ (hremoved.queues c) (hremoved.waiting c)
    rw [hact]
    exact ⟨hgranted.mapChannel c _ (hgranted.queues c) (hgranted.waiting c), rfl⟩

/-- Of the eight follow-on actions only the grant of the wake ask can follow a reset. -/
theorem State.OnlyBootAsk.advance {s t : State} (h : s.OnlyBootAsk) (ht : s.advance? = some t) :
    t.OnlyBootAsk ∧ t.host = s.host := by
  rcases s.advance_cases t ht with k | k | k | k | k | k | k | k
  · rw [s.gatherStep_none h.gather] at k; cases k
  · rw [s.readStep_none h.reader] at k; cases k
  · rw [s.takeStep_none 0 (h.queues 0)] at k; cases k
  · rw [s.takeStep_none 1 (h.queues 1)] at k; cases k
  · exact h.grantStep 0 k
  · exact h.grantStep 1 k
  · simp [State.loadEnd?, h.phase] at k
  · simp [State.drainEnd?, h.loading] at k

theorem State.OnlyBootAsk.settle_host {s : State} (h : s.OnlyBootAsk) : s.settle.host = s.host :=
  (State.settle_induction (fun u => u.OnlyBootAsk ∧ u.host = s.host)
    (fun _ _ hu k => ⟨(hu.1.advance k).1, (hu.1.advance k).2.trans hu.2⟩) s ⟨h, rfl⟩).2

theorem State.hostSide_fault (s : State) : s.hostSide.host.fault = s.host.fault := by
  obtain ⟨engine, requests, setupRequest, urgentRun, hgrant⟩ := s.grantMaster_frame
  rw [State.hostSide, State.updateIntreq_host, hgrant]

/-- R163, R175: the event of a local reset leaves FAULT clear. -/
theorem State.localReset_conclude_fault (s : State) : s.localReset.conclude.host.fault = 0 := by
  rw [State.conclude, State.hostSide_fault, State.joinStarted_host, s.localReset_onlyBootAsk.settle_host]
  rfl

/-- R163, R169, R172: the event of a local reset leaves the rings unconfigured and the Completion Poster in its reset state. -/
theorem State.localReset_conclude_rings (s : State) :
    s.localReset.conclude.fetch.config = none ∧ s.localReset.conclude.poster = ⟨0, 0, 0⟩ := by
  obtain ⟨-, -, hposter, -, -, -, -, -, -, -, -, -, -, -, hconfig, -⟩ := s.localReset.conclude_keeps
  exact ⟨hconfig, hposter⟩

/-! ### INTREQ -/

/-- R174: with the rings unconfigured and no FAULT flag set neither condition holds. -/
theorem State.intreqCondition_clear (s : State) (hconfig : s.fetch.config = none) (hfault : s.host.fault = 0) :
    s.intreqCondition = false := by
  simp [State.intreqCondition, State.completionCondition, hconfig, hfault]

theorem State.hostSide_follows (s : State) : s.hostSide.IntreqFollows := s.grantMaster.updateIntreq_follows

theorem State.conclude_follows (s : State) : s.conclude.IntreqFollows := s.settle.joinStarted.hostSide_follows

/-- R164: a link reset releases the line and clears both of its conditions. -/
theorem State.linkReset_follows (s : State) : s.linkReset.IntreqFollows := by
  simp [State.IntreqFollows, State.linkReset, State.reset, HostPort.reset]

/-- A command that is an event ends it with INTREQ brought up to date, or changes nothing. -/
theorem State.react_follows {s t : State} {f : State → Option State} (hs : s.IntreqFollows) (h : s.react f = .next t) :
    t.IntreqFollows := by
  rcases s.react_cases f with ⟨-, heq⟩ | ⟨-, -, heq⟩ | ⟨-, u, -, heq⟩
  · cases heq.symm.trans h; exact hs
  · cases heq.symm.trans h; exact hs
  · cases heq.symm.trans h; exact u.conclude_follows

/-- A register write keeps what its effect keeps. -/
theorem State.access_follows {s t : State} {f : State → State} (hs : s.IntreqFollows) (h : s.access f = .next t)
    (hf : (f s).IntreqFollows) : t.IntreqFollows := by
  cases hrst : s.pins.hrst with
  | true => cases (s.access_held f hrst).symm.trans h; exact hs
  | false => cases (s.access_run f hrst).symm.trans h; exact hf

theorem State.accept_follows {s t : State} {k : Kind} {r : OrderRecord} {handOn : EntryId → State → State}
    (hs : s.IntreqFollows) (h : s.accept k r handOn = .next t) : t.IntreqFollows := State.react_follows hs h

/-- R174: LINK_RESET clears INTREQ and its two conditions; GRD_CHANGE, SETUP_ADDR_WRITE and the ignored writes leave all three as they
stood; every other command changes nothing or ends with the line brought up to date. -/
theorem exec_keeps_intreqFollows (c : Instr) (s t : State) (hs : s.IntreqFollows) (h : exec c s = .next t) : t.IntreqFollows := by
  cases c with dsimp only [exec] at h
  | linkReset => cases h; exact s.linkReset_follows
  | hrstRelease _ =>
    unfold execHrstRelease at h
    split at h
    · cases h; exact State.conclude_follows _
    · cases h; exact hs
  | grdChange _ => cases h; exact hs
  | registerWriteIgnored _ _ _ => cases h; exact hs
  | setupAddrWrite _ =>
    refine State.access_follows hs h ?_
    split <;> exact hs
  | intEnable _ | faultIntEnable _ | faultWrite _ => exact State.access_follows hs h (State.updateIntreq_follows _)
  | runSet _ _ | ntailWrite _ | utailWrite _ | cheadWrite _ => exact State.access_follows hs h (State.hostSide_follows _)
  | read _ | write _ | fill _ | flush _ | setZone _ | setGeometry _ | storeProfile _ | cancel _ | revive _ | report _
  | unknownKind _ _ => exact State.accept_follows hs h
  | _ => exact State.react_follows hs h

theorem step_keeps_intreqFollows (s t : State) (hs : s.IntreqFollows) (h : step s = .next t) : t.IntreqFollows := by
  unfold step at h
  split at h
  · cases h; exact hs
  · next c rest _ => exact exec_keeps_intreqFollows c (s.withPending rest) t hs h

/-- Settles O52: the step lemma over the commands, then the two resets. -/
theorem intreqFollowsEveryStep : Obligations.IntreqFollowsEveryStep := by
  refine ⟨step_keeps_intreqFollows, fun s => ⟨s.linkReset, rfl, s.linkReset_follows, rfl⟩, fun s ie fe bw hlive hidle => ?_⟩
  exact ⟨_, s.localReset_answers ie fe bw hlive hidle, State.conclude_follows _,
    (State.conclude_intreq _).trans
      (State.intreqCondition_clear _ (State.localReset_conclude_rings _).1 (State.localReset_conclude_fault _))⟩

end Sys2Proof.Machine
end

section
/-! PROOFS. The completion ring and the setup block (R165, R166, R172): ring arithmetic, the cases of a CHEAD write, the judgement of a
setup block, and the obligations CheadWrite and SetupBlockJudged. -/

namespace Sys2Proof.Machine

/-! ### Ring indices -/

/-- Ring arithmetic: the count of a ring whose head is an index of it is (tail − head) mod size. -/
theorem ringCount_eq_emod (size head tail : Nat) (hhead : head < size) :
    (ringCount size head tail : Int) = ((tail : Int) - head) % size := by
  have hle : head ≤ tail + size := by omega
  have hshift : (tail : Int) + size - head = (tail - head) + size := by omega
  rw [ringCount, Int.natCast_emod, Nat.cast_sub hle, Nat.cast_add, hshift, Int.add_emod_right]

theorem State.IndicesFit.completion {s : State} (h : s.IndicesFit) {c : RingConfig} (hc : s.fetch.config = some c) :
    s.poster.tail < c.completion.size ∧ s.poster.head < c.completion.size := by
  simp only [State.IndicesFit, hc] at h
  obtain ⟨-, -, -, -, hcompletion⟩ := h
  exact hcompletion

/-- R172: the number of unacknowledged records of a configured ring. -/
theorem State.unacknowledged_eq_emod (s : State) (c : RingConfig) (hc : s.fetch.config = some c) (hfit : s.IndicesFit) :
    (s.unacknowledged : Int) = ((s.poster.tail : Int) - s.poster.head) % c.completion.size := by
  rw [State.unacknowledged, hc]
  exact ringCount_eq_emod _ _ _ (hfit.completion hc).2

/-! ### CHEAD -/

theorem State.writeHead_pending (s : State) (v : Word) (h : s.host.resetPending = true) : s.writeHead v = s := by
  simp [State.writeHead, h]

theorem State.writeHead_unconfigured (s : State) (v : Word) (h : s.host.resetPending = false) (hc : s.fetch.config = none) :
    s.writeHead v = s.setFault .badIndex := by
  simp [State.writeHead, h, hc]

/-- R172: a value that is no index of the ring, or would acknowledge slots not yet written, is ignored. -/
theorem State.writeHead_configured (s : State) (v : Word) (c : RingConfig) (h : s.host.resetPending = false)
    (hc : s.fetch.config = some c) (hfit : s.IndicesFit) :
    s.writeHead v =
      if c.completion.size ≤ v.toNat then s.setFault .badIndex
      else if ((s.poster.tail : Int) - s.poster.head) % c.completion.size
          < ((v.toNat : Int) - s.poster.head) % c.completion.size then s.setFault .badIndex
      else { s with poster := { s.poster with head := v.toNat } } := by
  have hhead := (hfit.completion hc).2
  have hcount : ((s.poster.tail : Int) - s.poster.head) % c.completion.size < ((v.toNat : Int) - s.poster.head) % c.completion.size
      ↔ ringCount c.completion.size s.poster.head s.poster.tail < ringCount c.completion.size s.poster.head v.toNat := by
    rw [← ringCount_eq_emod _ _ _ hhead, ← ringCount_eq_emod _ _ _ hhead, Nat.cast_lt]
  simp only [State.writeHead, h, hc, Bool.false_eq_true, if_false]
  by_cases hsize : c.completion.size ≤ v.toNat
  · rw [if_pos hsize, if_neg fun k => absurd k.1 (by omega)]
  · rw [if_neg hsize]
    by_cases hover : ringCount c.completion.size s.poster.head s.poster.tail < ringCount c.completion.size s.poster.head v.toNat
    · rw [if_pos (hcount.2 hover), if_neg fun k => absurd k.2 (by omega)]
    · rw [if_neg (mt hcount.1 hover), if_pos ⟨by omega, by omega⟩]

/-- R172: a write of the present value acknowledges nothing, and is taken. -/
theorem State.writeHead_present (s : State) (v : Word) (h : s.host.resetPending = false) (hc : s.fetch.config ≠ none)
    (hfit : s.IndicesFit) (hv : v.toNat = s.poster.head) : s.writeHead v = s := by
  obtain ⟨c, hc⟩ := Option.ne_none_iff_exists'.1 hc
  obtain ⟨htail, hhead⟩ := hfit.completion hc
  have hnone : ¬ ((s.poster.tail : Int) - s.poster.head) % c.completion.size
      < ((s.poster.head : Int) - s.poster.head) % c.completion.size := by
    rw [Int.sub_self, Int.zero_emod, not_lt]
    exact Int.emod_nonneg _ (by omega)
  rw [s.writeHead_configured v c h hc hfit, hv, if_neg (by omega), if_neg hnone]

/-- Settles O15: the four cases of a write, then the two resets, and the count. -/
theorem cheadWrite : Obligations.CheadWrite := by
  refine ⟨fun s v hrst hfit => ⟨s.writeHead v,
      s.access_run (fun u => (u.writeHead v).hostSide) hrst, ?_, fun h hc hv => s.writeHead_present v h hc hfit hv⟩,
    fun s => ⟨s.linkReset, rfl, rfl, rfl⟩, fun s ie fe bw hlive hidle => ?_, fun s x bw hrst hpending hbus => ?_,
    fun s c hc hfit => s.unacknowledged_eq_emod c hc hfit⟩
  · cases hpending : s.host.resetPending with
    | true => exact s.writeHead_pending v hpending
    | false =>
      cases hc : s.fetch.config with
      | none => exact s.writeHead_unconfigured v hpending hc
      | some c => exact s.writeHead_configured v c hpending hc hfit
  · exact ⟨_, s.localReset_answers ie fe bw hlive hidle, State.localReset_conclude_rings _⟩
  · exact ⟨_, s.localResetAtBurstEnd_answers x bw hrst hpending hbus, State.localReset_conclude_rings _⟩

/-! ### The setup block -/

/-- R165: the model's test of a ring size is that it is a power of two within the bounds. -/
theorem ringSizeOk_iff (lo hi n : Nat) : ringSizeOk (2 ^ lo) (2 ^ hi) n = true ↔ ∃ k, lo ≤ k ∧ k ≤ hi ∧ n = 2 ^ k := by
  simp only [ringSizeOk, Bool.and_eq_true, decide_eq_true_eq]
  constructor
  · rintro ⟨⟨hlo, hhi⟩, hpow⟩
    have hpos : n ≠ 0 := by have := Nat.two_pow_pos lo; omega
    obtain ⟨k, rfl⟩ := (Nat.and_sub_one_eq_zero_iff_isPowerOfTwo hpos).1 hpow
    exact ⟨k, (Nat.pow_le_pow_iff_right (by omega)).1 hlo, (Nat.pow_le_pow_iff_right (by omega)).1 hhi, rfl⟩
  · rintro ⟨k, hlo, hhi, rfl⟩
    exact ⟨⟨Nat.pow_le_pow_right (by omega) hlo, Nat.pow_le_pow_right (by omega) hhi⟩,
      (Nat.and_sub_one_eq_zero_iff_isPowerOfTwo (Nat.two_pow_pos k).ne').2 ⟨k, rfl⟩⟩

theorem ringPlaceOk_iff (base size slotBytes : Nat) :
    ringPlaceOk base size slotBytes = true ↔ base % 64 = 0 ∧ base + size * slotBytes ≤ 0x100000000 := by
  simp [ringPlaceOk]

/-- R165: the model's judgement of the block is the table of bad values. -/
theorem setupBlock_good_iff (b : SetupBlock) : b.good = true ↔ ¬ SetupBad b := by
  have hnormal : ringSizeOk 8 1024 b.normalSize.toNat = true ↔ _ := ringSizeOk_iff 3 10 b.normalSize.toNat
  have hurgent : ringSizeOk 8 1024 b.urgentSize.toNat = true ↔ _ := ringSizeOk_iff 3 10 b.urgentSize.toNat
  have hcompletion : ringSizeOk 16 2048 b.completionSize.toNat = true ↔ _ := ringSizeOk_iff 4 11 b.completionSize.toNat
  have hthreshold : b.threshold = 0 ↔ b.threshold.toNat = 0 := BitVec.toNat_inj.symm
  simp only [SetupBlock.good, SetupBad, Bool.and_eq_true, ringPlaceOk_iff, decide_eq_true_eq, hthreshold, hnormal, hurgent,
    hcompletion, not_or, not_not, not_lt, ne_eq, Nat.one_le_iff_ne_zero]
  constructor
  · rintro ⟨⟨⟨⟨⟨⟨⟨⟨⟨hnb, hne⟩, hub, hue⟩, hcb, hce⟩, hns⟩, hus⟩, hcs⟩, hlo⟩, hhi⟩, hzero⟩
    exact ⟨⟨hnb, hub, hcb⟩, hns, hus, hcs, ⟨hne, hue, hce⟩, ⟨hlo, hhi⟩, hzero⟩
  · rintro ⟨⟨hnb, hub, hcb⟩, hns, hus, hcs, ⟨hne, hue, hce⟩, ⟨hlo, hhi⟩, hzero⟩
    exact ⟨⟨⟨⟨⟨⟨⟨⟨⟨hnb, hne⟩, hub, hue⟩, hcb, hce⟩, hns⟩, hus⟩, hcs⟩, hlo⟩, hhi⟩, hzero⟩

/-! ### The setup block read -/

/-- R159, R166: in SETTING_UP the idle engine is granted the setup block read. -/
theorem State.grantMaster_setup (s : State) (hlive : s.Live) (hpart : s.host.part = .settingUp) (hconfig : s.fetch.config = none)
    (hwaits : s.host.setupRequest = true) (hidle : s.host.engine = none) : s.grantMaster = s.grantSetup := by
  simp [State.grantMaster, State.masterFree, hlive.2, hpart, hconfig, hwaits, hidle]

/-- R166: what a whole setup block does. -/
theorem State.setupBlockReadEnd_answers (s : State) (x : Transfer) (b : SetupBlock) (hlive : s.Live)
    (hbus : s.host.engine = some x) (hjob : x.job = .setupRead) (hlast : x.words ≤ x.moved + x.inBurst) :
    exec (.setupBlockReadEnd (.complete b)) s = .next
      (if b.good then (s.newEvent.setEngine none).configure b else (s.newEvent.setEngine none).refuseSetup).conclude := by
  rw [exec, execSetupBlockReadEnd]
  refine State.react_some _ _ _ hlive.1 ?_
  have hready : x.lastBurst = true := by rw [Transfer.lastBurst, x.burst_eq_inBurst]; exact decide_eq_true hlast
  rw [State.onBus_some s x _ _ hbus (by rw [hjob]; rfl) hready, Option.map_some, State.burstEnd_live s.newEvent _ hlive.2]

/-- Settles O20: the grant, then the end of the read by the judgement of its block. -/
theorem setupBlockJudged : Obligations.SetupBlockJudged := by
  refine ⟨fun s hlive hpart hconfig hwaits hidle => ?_, fun s x b hlive hbus hjob hlast => ?_⟩
  · rw [State.hostSide, State.updateIntreq_host, s.grantMaster_setup hlive hpart hconfig hwaits hidle]
    rfl
  · refine ⟨_, s.setupBlockReadEnd_answers x b hlive hbus hjob hlast, fun hbad => ?_, fun hgood => ?_⟩
    · rw [if_neg fun h => (setupBlock_good_iff b).1 h hbad]
      rfl
    · rw [if_pos ((setupBlock_good_iff b).2 hgood)]
      rfl

end Sys2Proof.Machine
end

section
/-! PROOFS. What the work inside the part keeps, beside what `State.kept` collects: an idle engine stays idle, a FAULT flag that is
set stays set, the pool keeps its bounds (R1, R3, R4, R11, R20, R30), and a GUARDED zone entry stands while the guard line is
asserted (R138, R139). `State.Works` is the relation, one lemma for each operation that the commands and the follow-on actions call. -/

namespace Sys2Proof.Machine

/-! ### The relations -/

/-- R138: zone entry `i` is the GUARDED entry `z`, the guard line is asserted, and the boot wake, whose loss would empty the zone table
(R147), is not in progress. -/
def State.GuardedAt (s : State) (i : ZoneIndex) (z : Zone) : Prop :=
  s.zones.guard = true ∧ s.zones.entries[i] = some z ∧ z.mode = .guardedZone ∧ s.loader.phase ≠ some .wake0

/-- Work after which an idle engine is idle, the set FAULT flags are set and the pool is in order, if it was before. -/
structure State.Calm (s u : State) : Prop where
  bus : s.host.engine = none → u.host.engine = none
  flags : ∀ f, s.flag f = true → u.flag f = true
  pool : s.PoolOk → u.PoolOk

/-- Calm work that leaves the GUARDED zone entries alone. -/
structure State.Works (s u : State) : Prop extends State.Calm s u where
  zones : ∀ i z, s.GuardedAt i z → u.GuardedAt i z

theorem State.Calm.refl {s : State} : s.Calm s := ⟨id, fun _ => id, id⟩

theorem State.Calm.trans {s u v : State} (h : s.Calm u) (k : u.Calm v) : s.Calm v :=
  ⟨k.bus ∘ h.bus, fun f => k.flags f ∘ h.flags f, k.pool ∘ h.pool⟩

theorem State.Works.refl {s : State} : s.Works s := ⟨.refl, fun _ _ => id⟩

theorem State.Works.trans {s u v : State} (h : s.Works u) (k : u.Works v) : s.Works v :=
  ⟨h.toCalm.trans k.toCalm, fun i z => k.zones i z ∘ h.zones i z⟩

theorem State.Works.foldl {α : Type} (f : State → α → State) (hf : ∀ (u : State) (a : α), u.Works (f u a)) (l : List α) (s : State) :
    s.Works (l.foldl f s) := by
  induction l generalizing s with
  | nil => exact .refl
  | cons a l ih => exact (hf s a).trans (ih _)

/-! ### A pool in order -/

/-- A buffer that has kept its page, has not been opened again, and has room for its contributors where it had. -/
structure Buffer.Settles (y y' : Buffer) : Prop where
  device : y'.device = y.device
  page : y'.page = y.page
  isOpen : y'.isOpen → y.isOpen
  gathering : y'.state = .gathering → y.state = .gathering
  contributors : y.contributors.length ≤ 8 → y'.contributors.length ≤ 8

theorem Buffer.Settles.refl {y : Buffer} : y.Settles y := ⟨rfl, rfl, id, id, id⟩

/-- R51 to R58: a buffer in its device's program slot is open no more. -/
theorem Buffer.Settles.inSlot (y : Buffer) {st : BufferState} (hg : st ≠ .gathering) (hc : st ≠ .closed) :
    y.Settles { y with state := st } :=
  ⟨rfl, rfl, fun ho => ho.elim (absurd · hg) (absurd · hc), (absurd · hg), id⟩

/-- A pool and devices that have taken no page on: every buffer was there before, no request is new, and the bounds hold where they
held. -/
structure State.PoolTame (s u : State) : Prop where
  buffers : ∀ b y', u.buffer? b = some y' → ∃ y, s.buffer? b = some y ∧ y.Settles y'
  request : ∀ r', u.pool.request = some r' → ∃ r, s.pool.request = some r ∧ r'.device = r.device ∧ r'.page = r.page
  failures : s.pool.failures.length ≤ 8 → u.pool.failures.length ≤ 8
  noAnswer : (∀ d, (s.device d).noAnswer ≤ 2) → ∀ d, (u.device d).noAnswer ≤ 2

/-- R3, R4, R11, R20, R30: such a pool stays in order. -/
theorem State.PoolTame.poolOk {s u : State} (h : s.PoolTame u) (hs : s.PoolOk) : u.PoolOk where
  onePerPage b b' y y' hy hy' ho ho' hd hp := by
    obtain ⟨z, hz, hset⟩ := h.buffers b y hy
    obtain ⟨z', hz', hset'⟩ := h.buffers b' y' hy'
    exact hs.onePerPage b b' z z' hz hz' (hset.isOpen ho) (hset'.isOpen ho')
      (hset.device.symm.trans (hd.trans hset'.device)) (hset.page.symm.trans (hp.trans hset'.page))
  requestOpen r hr b y hy hg hat_ := by
    obtain ⟨z, hz, hset⟩ := h.buffers b y hy
    obtain ⟨q, hq, hqd, hqp⟩ := h.request r hr
    exact hs.requestOpen q hq b z hz (hset.gathering hg)
      ⟨hset.device.symm.trans (hat_.1.trans hqd), hset.page.symm.trans (hat_.2.trans hqp)⟩
  contributors b y hy := by
    obtain ⟨z, hz, hset⟩ := h.buffers b y hy
    exact hset.contributors (hs.contributors b z hz)
  failures := h.failures hs.failures
  noAnswer := h.noAnswer hs.noAnswer

theorem State.PoolTame.of_eq {s u : State} (hpool : u.pool = s.pool) (hdevices : u.devices = s.devices) : s.PoolTame u where
  buffers b y hy := ⟨y, by rw [State.buffer?, ← hpool]; exact hy, .refl⟩
  request r hr := ⟨r, hpool ▸ hr, rfl, rfl⟩
  failures h := hpool ▸ h
  noAnswer h d := by rw [State.device, hdevices]; exact h d

/-- Work beside the pool, the devices, the zones and FAULT. -/
theorem State.Works.of_eq {s u : State} (hengine : u.host.engine = s.host.engine) (hfault : u.host.fault = s.host.fault)
    (hzones : u.zones = s.zones) (hphase : u.loader.phase = s.loader.phase) (hpool : u.pool = s.pool)
    (hdevices : u.devices = s.devices) : s.Works u where
  bus h := hengine.trans h
  flags f h := by rw [State.flag, hfault]; exact h
  pool := (State.PoolTame.of_eq hpool hdevices).poolOk
  zones i z h := by rw [State.GuardedAt, hzones, hphase]; exact h

/-- Work on the pool or the devices alone. -/
theorem State.Works.of_tame {s u : State} (hpool : s.PoolTame u) (hhost : u.host = s.host) (hzones : u.zones = s.zones)
    (hloader : u.loader = s.loader) : s.Works u where
  bus h := by rw [hhost]; exact h
  flags f h := by rw [State.flag, hhost]; exact h
  pool := hpool.poolOk
  zones i z h := by rw [State.GuardedAt, hzones, hloader]; exact h

/-! ### Single updates -/

section
variable {s u : State} (h : s.Works u)
include h

theorem State.Works.mapEntry (e : EntryId) (f : Entry → Entry) : s.Works (u.mapEntry e f) :=
  h.trans (.of_eq rfl rfl rfl rfl rfl rfl)

theorem State.Works.mapEntries (f : Entry → Entry) : s.Works (u.mapEntries f) :=
  h.trans (.of_eq rfl rfl rfl rfl rfl rfl)

theorem State.Works.mapChannel (c : ChannelId) (f : ChannelEngine → ChannelEngine) : s.Works (u.mapChannel c f) :=
  h.trans (.of_eq rfl rfl rfl rfl rfl rfl)

theorem State.Works.mapTurn (f : Turn → Turn) : s.Works (u.mapTurn f) :=
  h.trans (.of_eq rfl rfl rfl rfl rfl rfl)

theorem State.Works.queueItem (d : DevicePos) (w : Work) : s.Works (u.queueItem d w) := h.mapChannel _ _

theorem State.Works.withdrawItems (d : DevicePos) : s.Works (u.withdrawItems d) := h.mapChannel _ _

theorem State.Works.withdrawWork (d : DevicePos) (w : Work) : s.Works (u.withdrawWork d w) := h.mapChannel _ _

theorem State.Works.dropFrame (d : DevicePos) : s.Works (u.dropFrame d) := h.mapChannel _ _

theorem State.Works.freeChannel (c : ChannelId) : s.Works (u.freeChannel c) := h.mapChannel _ _

theorem State.Works.releaseTurn : s.Works u.releaseTurn := h.trans (.of_eq rfl rfl rfl rfl rfl rfl)

theorem State.Works.beginTurn (e : EntryId) (w : TurnWork) : s.Works (u.beginTurn e w) :=
  h.trans (.of_eq rfl rfl rfl rfl rfl rfl)

theorem State.Works.leaveQueue (e : EntryId) : s.Works (u.leaveQueue e) := h.trans (.of_eq rfl rfl rfl rfl rfl rfl)

theorem State.Works.requestMaster (j : Job) (r : List Byte) : s.Works (u.requestMaster j r) :=
  h.trans (.of_eq rfl rfl rfl rfl rfl rfl)

theorem State.Works.setActive (a : Option ActiveRead) : s.Works (u.setActive a) :=
  h.trans (.of_eq rfl rfl rfl rfl rfl rfl)

theorem State.Works.joinStarted : s.Works u.joinStarted := h.trans (.of_eq rfl rfl rfl rfl rfl rfl)

theorem State.Works.putEntry (e : EntryId) (x : Entry) : s.Works (u.putEntry e x) :=
  h.trans (.of_eq rfl rfl rfl rfl rfl rfl)

/-- R80, R91: the end of an order is work in the Order Table. -/
theorem State.Works.goDone (e : EntryId) (r : Result) : s.Works (u.goDone e r) := by
  rw [u.goDone_frame e r]
  exact h.trans (.of_eq rfl rfl rfl rfl rfl rfl)

/-- R160: a transfer whose requester gives it up stays on the bus, and none comes onto it. -/
theorem State.Works.giveUp (j : Job) : s.Works (u.giveUp j) :=
  h.trans
    { bus := fun hidle => by simp [State.giveUp, hidle]
      flags := fun _ => id
      pool := State.PoolTame.poolOk (.of_eq rfl rfl)
      zones := fun _ _ => id }

/-- R175: a flag that is set stays set. -/
theorem State.Works.setFault (f : FaultFlag) : s.Works (u.setFault f) :=
  h.trans
    { bus := id
      flags := fun g hg => by
        simp only [State.flag, State.setFault, BitVec.getLsbD_or, Bool.or_eq_true] at hg ⊢
        exact .inl hg
      pool := State.PoolTame.poolOk (.of_eq rfl rfl)
      zones := fun _ _ => id }

/-- A buffer changed in place. -/
theorem State.Works.mapBuffer (b : BufferId) (f : Buffer → Buffer) (hf : ∀ y, u.buffer? b = some y → y.Settles (f y)) :
    s.Works (u.mapBuffer b f) := by
  refine h.trans (.of_tame ?_ rfl rfl rfl)
  refine ⟨fun b' y' hy' => ?_, fun r hr => ⟨r, hr, rfl, rfl⟩, id, id⟩
  by_cases hb : b' = b
  · subst hb
    obtain ⟨y, hy, rfl⟩ := Option.map_eq_some_iff.1 ((u.mapBuffer_buffer b' f).symm.trans hy')
    exact ⟨y, hy, hf y hy⟩
  · exact ⟨y', (u.mapBuffer_other b b' f hb).symm.trans hy', .refl⟩

/-- R13: orders only leave the contributor lists. -/
theorem State.Works.leaveContributors (e : EntryId) : s.Works (u.leaveContributors e) := by
  refine h.trans (.of_tame ?_ rfl rfl rfl)
  refine ⟨fun b y' hy' => ?_, fun r hr => ⟨r, hr, rfl, rfl⟩, id, id⟩
  obtain ⟨y, hy, rfl⟩ := Option.map_eq_some_iff.1 ((u.mapBuffers_buffer b _).symm.trans hy')
  exact ⟨y, hy, rfl, rfl, id, id, (List.length_filter_le _ _).trans⟩

/-- A device record changed with its no-answer count in bounds. -/
theorem State.Works.mapDevice (d : DevicePos) (f : DeviceRecord → DeviceRecord)
    (hf : (u.device d).noAnswer ≤ 2 → (f (u.device d)).noAnswer ≤ 2) : s.Works (u.mapDevice d f) := by
  refine h.trans (.of_tame ?_ rfl rfl rfl)
  refine ⟨fun b y hy => ⟨y, hy, .refl⟩, fun r hr => ⟨r, hr, rfl, rfl⟩, id, fun hcount d' => ?_⟩
  by_cases hd : d' = d
  · subst hd
    rw [u.mapDevice_device d' f]
    exact hf (hcount d')
  · rw [u.mapDevice_other d d' f hd]
    exact hcount d'

/-! ### Page Buffer Pool -/

theorem State.Works.closeBuffer (b : BufferId) : s.Works (u.closeBuffer b) := by
  unfold State.closeBuffer
  split
  · next x hx =>
    split
    · next hg =>
      refine (h.mapBuffer b _ fun y hy => ?_).mapChannel _ _
      cases hx.symm.trans hy
      exact ⟨rfl, rfl, fun _ => .inl hg, fun hclosed => (nomatch hclosed), id⟩
    · exact h
  · exact h

theorem State.Works.closeAll (l : List BufferId) : s.Works (u.closeAll l) :=
  h.trans (.foldl _ (fun _ b => State.Works.refl.closeBuffer b) l u)

/-- R20: the list takes no ninth entry. -/
theorem State.Works.noteFailure (f : PageFailure) : s.Works (u.noteFailure f) := by
  unfold State.noteFailure
  split
  · next hroom =>
    refine h.trans (.of_tame ?_ rfl rfl rfl)
    exact ⟨fun b y hy => ⟨y, hy, .refl⟩, fun r hr => ⟨r, hr, rfl, rfl⟩, fun _ => by simpa using hroom, id⟩
  · have hdrop (n : BitVec 16) : s.Works { u with pool := { u.pool with dropped := n } } :=
      h.trans (.of_tame ⟨fun b y hy => ⟨y, hy, .refl⟩, fun r hr => ⟨r, hr, rfl, rfl⟩, id, id⟩ rfl rfl rfl)
    dsimp only
    split
    · exact (hdrop _).setFault .faillistDrop
    · exact hdrop _

theorem State.Works.storeEnded (j : StoreJob) (good : Bool) : s.Works (u.storeEnded j good) := by
  unfold State.storeEnded Loader.setKnown
  split <;> split <;> exact h.trans (.of_eq rfl rfl rfl rfl rfl rfl)

theorem State.Works.endDurable (e : EntryId) : s.Works (u.endDurable e) := by
  unfold State.endDurable
  split
  · exact h
  · split
    · exact (h.storeEnded _ _).goDone e _
    · exact h.goDone e _

theorem State.Works.giveResult (f : Option PageFailure) (e : EntryId) : s.Works (u.giveResult f e) := by
  unfold State.giveResult
  split
  · exact h
  · dsimp only
    split
    · exact (h.mapEntry e _).endDurable e
    · exact h.mapEntry e _

theorem State.Works.giveAll (f : Option PageFailure) (l : List EntryId) : s.Works (l.foldl (fun t e => t.giveResult f e) u) :=
  h.trans (.foldl _ (fun _ e => State.Works.refl.giveResult f e) l u)

/-- R21, R108: a FLUSH only shortens the failure list. -/
theorem State.Works.reportFlush (e : EntryId) : s.Works (u.reportFlush e) := by
  unfold State.reportFlush
  split
  · exact h
  · refine State.Works.goDone ?_ e _
    refine h.trans (.of_tame ?_ rfl rfl rfl)
    exact ⟨fun b y hy => ⟨y, hy, .refl⟩, fun r hr => ⟨r, hr, rfl, rfl⟩, (List.length_filter_le _ _).trans, id⟩

theorem State.Works.reportFlushes : s.Works u.reportFlushes :=
  h.trans (.foldl _ (fun _ e => State.Works.refl.reportFlush e) _ u)

/-- R19: the record is FREE, and its page has one buffer less. -/
theorem State.Works.freeBuffer (b : BufferId) (d : DevicePos) : s.Works (u.freeBuffer b d) := by
  have hfree : s.Works { u with pool := { u.pool with buffers := u.pool.buffers.set b none } } := by
    refine h.trans (.of_tame ?_ rfl rfl rfl)
    refine ⟨fun b' y hy => ⟨y, ?_, .refl⟩, fun r hr => ⟨r, hr, rfl, rfl⟩, id, id⟩
    simp only [State.buffer?, Fin.getElem_fin, Vector.getElem_set] at hy ⊢
    split at hy
    · cases hy
    · exact hy
  exact (((hfree.mapChannel _ _).mapDevice d _ fun hn => by split <;> exact hn).mapTurn _).mapEntries _

theorem State.Works.endBufferQuiet (b : BufferId) (f : Option Cause) : s.Works (u.endBufferQuiet b f) := by
  unfold State.endBufferQuiet
  split
  · exact h
  · refine State.Works.freeBuffer ?_ b _
    split
    · split
      · exact (h.giveAll _ _).noteFailure _
      · exact h.giveAll _ _
    · exact h.giveAll _ _

/-! ### Devices and the Profile Loader -/

theorem State.Works.wake (d : DevicePos) : s.Works (u.wake d) :=
  (h.mapDevice d _ fun _ => Nat.zero_le 2).queueItem d _

theorem State.Works.deviceBack (d : DevicePos) : s.Works (u.deviceBack d) := h.trans (.of_eq rfl rfl rfl rfl rfl rfl)

/-- R147: the boot wake ends, and a new one does not begin. -/
theorem State.Works.setPhase (p : Option LoadPhase) (hp : p ≠ some .wake0) :
    s.Works { u with loader := { u.loader with phase := p } } :=
  h.trans
    { bus := id
      flags := fun _ => id
      pool := State.PoolTame.poolOk (.of_eq rfl rfl)
      zones := fun _ _ ⟨hguard, hentry, hmode, _⟩ => ⟨hguard, hentry, hmode, hp⟩ }

theorem State.Works.bootAwake (d : DevicePos) : s.Works (u.bootAwake d) := by
  unfold State.bootAwake
  split
  · exact (h.setPhase (some .readA) (by decide)).queueItem 0 _
  · exact h

theorem State.Works.enterIdle (d : DevicePos) : s.Works (u.enterIdle d) :=
  (((h.mapDevice d _ fun _ => Nat.zero_le 2).withdrawWork d _).deviceBack d).bootAwake d

theorem State.Works.geometryChanged (d : DevicePos) (before after : Bool) : s.Works (u.geometryChanged d before after) := by
  unfold State.geometryChanged
  split
  · exact ((h.mapDevice d _ fun _ => Nat.zero_le 2).withdrawItems d).dropFrame d
  · exact h.wake d
  · split
    · exact h.wake d
    · exact h.mapDevice d _ id
    · exact h
  · exact h

theorem State.Works.applyGeometry (d : DevicePos) (g : Option Geometry) : s.Works (u.applyGeometry d g) :=
  have hset : s.Works (u.setGeometry d g) := h.trans (.of_eq rfl rfl rfl rfl rfl rfl)
  hset.geometryChanged d _ _

/-! ### Barrier orders -/

/-- R139: a SET_ZONE that acts replaces no GUARDED entry while the guard line is asserted. -/
theorem State.Works.actSetZone (e : EntryId) (x : Entry) : s.Works (u.actSetZone e x) := by
  unfold State.actSetZone
  split
  · exact (h.goDone e _).releaseTurn
  · next hfree =>
    refine State.Works.releaseTurn (State.Works.goDone (h.trans ?_) e _)
    refine ⟨⟨id, fun _ => id, State.PoolTame.poolOk (.of_eq rfl rfl)⟩, fun i z hguarded => ?_⟩
    obtain ⟨hguard, hentry, hmode, hphase⟩ := hguarded
    have hother : x.record.zoneIndex ≠ i := by
      rintro rfl
      simp [State.guardsIndex, hguard, hentry, hmode] at hfree
    refine ⟨hguard, ?_, hmode, hphase⟩
    have hval : (x.record.zoneIndex : Nat) ≠ i := fun k => hother (Fin.ext k)
    simpa [Vector.getElem_set, hval] using hentry

theorem State.Works.actSetGeometry (e : EntryId) (x : Entry) : s.Works (u.actSetGeometry e x) :=
  ((h.applyGeometry _ _).goDone e _).releaseTurn

theorem State.Works.actStoreProfile (e : EntryId) : s.Works (u.actStoreProfile e) := by
  unfold State.actStoreProfile
  split
  · exact (h.goDone e _).releaseTurn
  · exact (h.mapEntry e _).mapTurn _

theorem State.Works.actBarrier : s.Works u.actBarrier := by
  unfold State.actBarrier
  split
  · exact h
  · split
    · exact h.actSetZone _ _
    · exact h.actSetGeometry _ _
    · exact h.actStoreProfile _
    · exact h

theorem State.Works.endBuffer (b : BufferId) (f : Option Cause) : s.Works (u.endBuffer b f) :=
  (h.endBufferQuiet b f).reportFlushes.actBarrier

/-! ### Gather Engine -/

theorem State.Works.endGather : s.Works u.endGather := by
  unfold State.endGather
  split
  · exact h
  · split
    · dsimp only
      split
      · exact ((h.closeAll _).endDurable _).releaseTurn
      · exact ((h.closeAll _).mapEntry _ _).releaseTurn
    · split
      · exact ((h.closeAll _).goDone _ _).releaseTurn
      · exact (h.goDone _ _).releaseTurn

theorem State.Works.failWrite : s.Works u.failWrite := by
  unfold State.failWrite
  split
  · exact h
  · exact (((h.leaveContributors _).closeAll _).goDone _ _).releaseTurn

theorem State.Works.gatherOffline (d : DevicePos) : s.Works (u.gatherOffline d) := by
  unfold State.gatherOffline
  split
  · exact h
  · split
    · refine ((State.Works.giveUp ?_ _).leaveContributors _ |>.goDone _ _).releaseTurn
      split
      · exact h.storeEnded _ _
      · exact h
    · exact h

/-- R9, R11: a merge adds one contributor at most, where there is room for it. -/
theorem State.Works.mergeSpan (t : Turn) (x : Entry) (sp : Span) (bytes : List Byte) (b : BufferId)
    (hroom : ∀ y, u.buffer? b = some y → x.durable = true → t.entry ∉ y.contributors → y.contributors.length < 8) :
    s.Works (u.mergeSpan t x sp bytes b) := by
  have hmerged : s.Works (u.mapBuffer b (u.mergedBuffer t.entry x (sp.address % u.pageSize x.position) bytes)) := by
    refine h.mapBuffer b _ fun y hy => ⟨rfl, rfl, id, id, fun hle => ?_⟩
    dsimp only [State.mergedBuffer]
    split
    · next hnew =>
      rw [List.length_append]
      exact hroom y hy hnew.1 hnew.2
    · exact hle
  have hturn := (hmerged.mapEntry t.entry fun x => { x with progress := x.progress + sp.length }).mapTurn fun t =>
    { t with span := none, bytes := none, touched := addOnce b t.touched
             joined := if x.durable then addOnce b t.joined else t.joined }
  have hfull {v : State} (hv : s.Works v) : s.Works (if v.pageFull b then v.closeBuffer b else v) := by
    split
    · exact hv.closeBuffer b
    · exact hv
  unfold State.mergeSpan
  by_cases hlast : x.total ≤ x.progress + sp.length
  · simp only [if_pos hlast]
    exact (hfull hturn).endGather
  · simp only [if_neg hlast]
    exact hfull hturn

theorem State.Works.takeGatherSpan (t : Turn) (x : Entry) : s.Works (u.takeGatherSpan t x) := by
  unfold State.takeGatherSpan
  dsimp only
  split
  · exact (h.mapTurn _).requestMaster _ _
  · exact h.mapTurn _
  · exact h.mapTurn _
  · exact h

theorem State.Works.startMerging (e : EntryId) (x : Entry) (w : TurnWork) : s.Works (u.startMerging e x w) := by
  unfold State.startMerging
  split
  · exact (h.leaveQueue e).goDone e _
  · exact (h.leaveQueue e).beginTurn e w

theorem State.Works.takeWatch (e : EntryId) (st : OrderState) (p : Buffer → Bool) : s.Works (u.takeWatch e st p) :=
  (h.closeAll _).mapEntry e _

theorem State.Works.startFlush (e : EntryId) (x : Entry) : s.Works (u.startFlush e x) := by
  unfold State.startFlush
  dsimp only
  split
  · exact (h.leaveQueue e).goDone e _
  · split
    · exact (h.leaveQueue e).reportFlush e
    · exact (h.leaveQueue e).takeWatch e _ _

theorem State.Works.startBarrier (e : EntryId) (st : OrderState) (p : Buffer → Bool) : s.Works (u.startBarrier e st p) :=
  (((h.leaveQueue e).beginTurn e .barrier).takeWatch e st p).actBarrier

theorem State.Works.startSetZone (e : EntryId) (x : Entry) : s.Works (u.startSetZone e x) := by
  unfold State.startSetZone
  split
  · exact (h.leaveQueue e).goDone e _
  · exact h.startBarrier e _ _

theorem State.Works.startSetGeometry (e : EntryId) (x : Entry) : s.Works (u.startSetGeometry e x) := by
  unfold State.startSetGeometry
  split
  · exact h.startBarrier e _ _
  · exact (h.leaveQueue e).goDone e _

theorem State.Works.startStoreProfile (e : EntryId) : s.Works (u.startStoreProfile e) := by
  unfold State.startStoreProfile
  split
  · exact (h.leaveQueue e).goDone e _
  · split
    · exact (h.leaveQueue e).goDone e _
    · exact (h.mapEntry e _).startBarrier e _ _

theorem State.Works.startHead (e : EntryId) (x : Entry) : s.Works (u.startHead e x) := by
  unfold State.startHead
  split
  · exact h.startMerging e x _
  · exact h.startMerging e x _
  · exact h.startFlush e x
  · exact h.startSetZone e x
  · exact h.startSetGeometry e x
  · exact h.startStoreProfile e
  · exact h.leaveQueue e

/-! ### Read Engine -/

theorem State.Works.assemble (a : ActiveRead) (x : Entry) (st : List Staged) : s.Works (u.assemble a x st) := by
  unfold State.assemble
  refine State.Works.requestMaster ?_ _ _
  split
  · exact (h.setActive _).mapEntry _ _
  · exact h.setActive _

theorem State.Works.parkRead (e : EntryId) (d : DevicePos) : s.Works (u.parkRead e d) :=
  h.trans (.of_eq rfl rfl rfl rfl rfl rfl)

theorem State.Works.askDevice (e : EntryId) (d : DevicePos) : s.Works (u.askDevice e d) := by
  unfold State.askDevice
  split
  · exact h.queueItem d _
  · exact h.parkRead e d

theorem State.Works.takeReadSpan (e : EntryId) : s.Works (u.takeReadSpan e) := by
  unfold State.takeReadSpan
  split
  · exact h
  · dsimp only
    split
    · exact h.assemble _ _ _
    · exact (h.setActive _).askDevice _ _

theorem State.Works.overlayRead (a : ActiveRead) (x : Entry) (lo : Nat) (bytes : List Byte) :
    s.Works (u.overlayRead a x lo bytes) := by
  unfold State.overlayRead
  dsimp only
  split
  · exact (h.setActive _).askDevice _ _
  · exact h.assemble _ _ _

theorem State.Works.startRead (e : EntryId) : s.Works (u.startRead e) := by
  have hactive := h.mapEntry e fun x => { x with state := .active }
  unfold State.startRead
  dsimp only
  split
  · exact hactive.trans (.of_eq rfl rfl rfl rfl rfl rfl)
  · split
    · refine State.Works.goDone ?_ e _
      exact hactive.trans (.of_eq rfl rfl rfl rfl rfl rfl)
    · refine State.Works.takeReadSpan ?_ e
      exact hactive.trans (.of_eq rfl rfl rfl rfl rfl rfl)

theorem State.Works.resumeRead (e : EntryId) : s.Works (u.resumeRead e) := by
  refine State.Works.takeReadSpan ?_ e
  exact h.trans (.of_eq rfl rfl rfl rfl rfl rfl)

theorem State.Works.delivered (a : ActiveRead) (x : Entry) : s.Works (u.delivered a x) := by
  unfold State.delivered
  dsimp only
  split
  · exact ((h.mapEntry _ _).setActive none).goDone _ _
  · exact (h.mapEntry _ _).takeReadSpan _

theorem State.Works.deliveryFailed (a : ActiveRead) (x : Entry) : s.Works (u.deliveryFailed a x) :=
  (h.setActive none).goDone _ _

theorem State.Works.readOffline (e : EntryId) : s.Works (u.readOffline e) := by
  unfold State.readOffline
  split
  · exact h
  · exact (h.giveUp _).goDone e _

theorem State.Works.readsOffline (d : DevicePos) : s.Works (u.readsOffline d) := by
  have hactive : s.Works (match u.activeOf d with | some e => (u.setActive none).readOffline e | none => u) := by
    split
    · exact (h.setActive none).readOffline _
    · exact h
  unfold State.readsOffline
  refine State.Works.trans ?_ (.foldl State.readOffline (fun _ e => State.Works.refl.readOffline e) _ _)
  exact hactive.trans (.of_eq rfl rfl rfl rfl rfl rfl)

/-! ### Channel Engines -/

theorem State.Works.enterSlot (b : BufferId) (y : Buffer) : s.Works (u.enterSlot b y) := by
  unfold State.enterSlot
  dsimp only
  refine (State.Works.mapBuffer ((h.mapChannel _ _).mapDevice _ _ id) b _ fun z hz => ?_).queueItem _ _
  split <;> exact .inSlot z (by decide) (by decide)

theorem State.Works.takeBuffer (b : BufferId) : s.Works (u.takeBuffer b) := by
  unfold State.takeBuffer
  split
  · exact h
  · split
    · exact h.endBuffer b _
    · exact h.enterSlot b _

theorem State.Works.queueStart (b : BufferId) (d : DevicePos) : s.Works (u.queueStart b d) :=
  (h.mapBuffer b (fun y => { y with state := .programming }) fun y _ => .inSlot y (by decide) (by decide)).queueItem d _

theorem State.Works.failAttempt (b : BufferId) (c : Cause) : s.Works (u.failAttempt b c) := by
  unfold State.failAttempt
  split
  · exact h
  · have hcounted (y : Buffer) := (h.mapBuffer b (fun y => { y with cause := some c }) fun _ _ => ⟨rfl, rfl, id, id, id⟩).mapDevice
      y.device DeviceRecord.countFailed id
    dsimp only
    split
    · exact (hcounted _).queueStart b _
    · exact (hcounted _).endBuffer b _

theorem State.Works.succeed (b : BufferId) : s.Works (u.succeed b) := by
  unfold State.succeed
  split
  · exact h
  · exact (h.mapDevice _ DeviceRecord.countProgrammed id).endBuffer b _

theorem State.Works.cycleGood (b : BufferId) : s.Works (u.cycleGood b) := by
  unfold State.cycleGood
  split
  · exact h
  · split
    · exact (h.mapBuffer b (fun y => { y with state := .verifying }) fun y _ => .inSlot y (by decide) (by decide)).queueItem _ _
    · exact h.succeed b

theorem State.Works.countLostAttempt (d : DevicePos) : s.Works (u.countLostAttempt d) := by
  unfold State.countLostAttempt
  split
  · split
    · exact h.mapDevice d DeviceRecord.countFailed id
    · exact h
  · exact h

/-- R38, step 1: the device's own allocation request is withdrawn, and no other is made. -/
theorem State.Works.markOffline (d : DevicePos) : s.Works (u.markOffline d) := by
  have hdevice := h.mapDevice d (fun r => { r with
    state := .offline, wakeLimit := none, cycleTimer := none, pollTimer := false, noAnswer := 0, confirming := false })
    fun _ => Nat.zero_le 2
  refine hdevice.trans (.of_tame ⟨fun b y hy => ⟨y, hy, .refl⟩, fun r hr => ⟨r, ?_, rfl, rfl⟩, id, id⟩ rfl rfl rfl)
  revert hr
  dsimp only [State.markOffline]
  split
  · next q hq =>
    split
    · exact nofun
    · exact fun hr => hq.trans hr
  · exact nofun

theorem State.Works.endLostBuffers (d : DevicePos) (c : Cause) : s.Works (u.endLostBuffers d c) :=
  (h.trans (.foldl _ (fun _ b => State.Works.refl.endBufferQuiet b _) _ u)).reportFlushes.actBarrier

end

/-! ### The profile -/

/-- R149: the application of a choice is calm work; it replaces the whole zone table. -/
theorem State.calm_applyProfile (s : State) (used : Option CopyId) (generation : BitVec 32)
    (geometry : Vector (Option Geometry) 8) (zones : Vector (Option Zone) 16) :
    s.Calm (s.applyProfile used generation geometry zones) := by
  have hset : s.Calm { s with
      loader := { s.loader with geometry, inUse := used, generation, phase := some .wakeRest, judgedA := none }
      zones := { s.zones with entries := zones } } := ⟨id, fun _ => id, State.PoolTame.poolOk (.of_eq rfl rfl)⟩
  exact hset.trans (State.Works.foldl _ (fun _ d => State.Works.refl.geometryChanged d _ _) _ _).toCalm

theorem State.calm_setFault (s : State) (f : FaultFlag) : s.Calm (s.setFault f) := (State.Works.refl.setFault f).toCalm

theorem State.calm_applyDefault (s : State) : s.Calm s.applyDefault := by
  have hcopies : s.Calm { s with loader := { s.loader with copyA := none, copyB := none } } :=
    ⟨id, fun _ => id, State.PoolTame.poolOk (.of_eq rfl rfl)⟩
  unfold State.applyDefault
  exact (hcopies.trans (State.calm_applyProfile _ _ _ _ _)).trans (State.calm_setFault _ _)

theorem State.calm_chooseProfile (s : State) (a b : Option Profile) : s.Calm (s.chooseProfile a b) := by
  unfold State.chooseProfile
  split
  · split <;> exact s.calm_applyProfile _ _ _ _
  · exact (s.calm_applyProfile _ _ _ _).trans (State.calm_setFault _ _)
  · exact (s.calm_applyProfile _ _ _ _).trans (State.calm_setFault _ _)
  · exact s.calm_applyDefault

/-- R147: the loss of the boot wake alone empties the zone table. -/
theorem State.Works.bootLost {s u : State} (h : s.Works u) (d : DevicePos) : s.Works (u.bootLost d) := by
  unfold State.bootLost
  split
  · next hboot => exact h.trans ⟨u.calm_applyDefault, fun _ _ hguarded => absurd hboot.2 hguarded.2.2.2⟩
  · exact h

/-- R38: the loss of a device. -/
theorem State.Works.goOffline {s u : State} (h : s.Works u) (d : DevicePos) (c : Cause) : s.Works (u.goOffline d c) :=
  (((((((((h.countLostAttempt d).markOffline d).withdrawItems d).dropFrame d).endLostBuffers d c).readsOffline d).gatherOffline
    d).setFault .deviceLost).bootLost d)

end Sys2Proof.Machine
end

section
/-! PROOFS. What a whole event keeps, in the terms of `State.Works`: the allocation of a buffer (R4 to R7), the steps of the Gather Engine
and the Read Engine, the looks, the grants, and the ends of the load and of a drain. -/

namespace Sys2Proof.Machine

/-! ### Allocation -/

theorem State.bufferOf_is (s : State) (st : BufferState) (d : DevicePos) (page : Nat) (b : BufferId)
    (h : s.bufferOf st d page = some b) : ∃ y, s.buffer? b = some y ∧ y.state = st ∧ y.device = d ∧ y.page = page := by
  obtain ⟨y, hy, hp⟩ := (s.mem_buffersWhere _ b).1 (List.mem_of_mem_head? h)
  simp only [Bool.and_eq_true, decide_eq_true_eq, and_assoc] at hp
  exact ⟨y, hy, hp⟩

/-- R4: a buffer of the page in that state is found. -/
theorem State.not_of_bufferOf_none (s : State) (st : BufferState) (d : DevicePos) (page : Nat) (h : s.bufferOf st d page = none)
    (b : BufferId) (y : Buffer) (hy : s.buffer? b = some y) (hst : y.state = st) : ¬ (y.device = d ∧ y.page = page) := by
  intro hat_
  obtain ⟨b', -, hsome, -⟩ := s.bufferOf_some st d page b y hy ⟨hst, hat_⟩
  rw [h] at hsome
  cases hsome

/-- R4: a request for a page that has no GATHERING buffer. -/
theorem State.Works.requestBuffer {s u : State} (h : s.Works u) (d : DevicePos) (page : Nat)
    (hnone : u.PoolOk → ∀ b y, u.buffer? b = some y → y.state = .gathering → ¬ (y.device = d ∧ y.page = page)) :
    s.Works (u.requestBuffer d page) := by
  refine h.trans ⟨⟨id, fun _ => id, fun hu => { hu with requestOpen := fun r hr => ?_ }⟩, fun _ _ => id⟩
  cases hr
  exact hnone hu

/-- R3, R12: with a page's one open buffer closed, the page has no GATHERING buffer. -/
theorem State.closeBuffer_page (s : State) (b : BufferId) (z : Buffer) (hz : s.buffer? b = some z) (hg : z.state = .gathering)
    (hu : (s.closeBuffer b).PoolOk) (b' : BufferId) (y : Buffer) (hy : (s.closeBuffer b).buffer? b' = some y)
    (hyg : y.state = .gathering) : ¬ (y.device = z.device ∧ y.page = z.page) := by
  rintro ⟨hd, hp⟩
  have hclosed : (s.closeBuffer b).buffer? b = some { z with state := .closed, linger := none } := by
    rw [s.closeBuffer_buffer b b, hz]
    simp [hg]
  have hsame : b' = b := hu.onePerPage b' b y _ hy hclosed (.inl hyg) (.inr rfl) hd hp
  rw [hsame, hclosed] at hy
  cases hy
  cases hyg

theorem State.works_askPool (s : State) (t : Turn) (x : Entry) (sp : Span) (bytes : List Byte) :
    s.Works (s.askPool t x sp bytes) := by
  unfold State.askPool
  dsimp only
  split
  · next hnone => exact State.Works.refl.requestBuffer _ _ fun _ => s.not_of_bufferOf_none _ _ _ hnone
  · next b hsome =>
    obtain ⟨z, hz, hg, hd, hp⟩ := s.bufferOf_is _ _ _ b hsome
    split
    · next y hy =>
      split
      · refine (State.Works.refl.closeBuffer b).requestBuffer _ _ fun hu => ?_
        simpa only [hd, hp] using s.closeBuffer_page b z hz hg hu
      · next hroom =>
        refine State.Works.refl.mergeSpan t x sp bytes b fun y' hy' hdurable hnew => ?_
        cases hy.symm.trans hy'
        exact Nat.lt_of_not_le fun hfull => hroom ⟨hdurable, hnew, hfull⟩
    · exact .refl

theorem State.closeBuffer_request (s : State) (b : BufferId) : (s.closeBuffer b).pool.request = s.pool.request :=
  congrArg (fun u => u.pool.request) (s.closeBuffer_closes b).2

/-- R6: pool pressure closes a buffer; the request stays one for its page. -/
theorem State.works_applyPressure (s : State) (r : AllocRequest) (hr : s.pool.request = some r) :
    s.Works (s.applyPressure r) := by
  have hpressed {u : State} (hu : s.Works u) (hur : u.pool.request = some r) :
      s.Works { u with pool := { u.pool with request := some { r with pressed := true } } } := by
    refine hu.trans ⟨⟨id, fun _ => id, fun hok => { hok with requestOpen := fun q hq => ?_ }⟩, fun _ _ => id⟩
    cases hq
    exact hok.requestOpen r hur
  unfold State.applyPressure
  split
  · next b _ => exact hpressed (State.Works.refl.closeBuffer b) ((s.closeBuffer_request b).trans hr)
  · exact hpressed .refl hr

/-- R3, R5, R7: a FREE record takes a page that has no open buffer. -/
theorem State.AllocatesBuffer.poolOk {s v : State} {r : AllocRequest} {b : BufferId} {y : Buffer} (h : s.AllocatesBuffer v r b y)
    (hr : s.pool.request = some r) (hclosed : s.bufferOf .closed r.device r.page = none) (hs : s.PoolOk) : v.PoolOk := by
  obtain ⟨hy, hv, hb, hothers⟩ := h
  have hdevice : y.device = r.device := by rw [hy]
  have hpage : y.page = r.page := by rw [hy]
  have hfresh (b' : BufferId) (y' : Buffer) (hne : b' ≠ b) (hy' : v.buffer? b' = some y') (ho : y'.isOpen) :
      ¬ (y'.device = y.device ∧ y'.page = y.page) := by
    rw [hothers b' hne] at hy'
    rw [hdevice, hpage]
    exact ho.elim (hs.requestOpen r hr b' y' hy') (s.not_of_bufferOf_none _ _ _ hclosed b' y' hy')
  have hnoRequest : v.pool.request = none := by rw [hv]
  refine ⟨fun b1 b2 y1 y2 h1 h2 ho1 ho2 hd hp => ?_, fun q hq => ?_, fun b' y' hy' => ?_, ?_, ?_⟩
  · by_cases hb1 : b1 = b <;> by_cases hb2 : b2 = b
    · exact hb1.trans hb2.symm
    · rw [hb1, hb] at h1
      cases h1
      exact absurd ⟨hd.symm, hp.symm⟩ (hfresh b2 y2 hb2 h2 ho2)
    · rw [hb2, hb] at h2
      cases h2
      exact absurd ⟨hd, hp⟩ (hfresh b1 y1 hb1 h1 ho1)
    · rw [hothers b1 hb1] at h1
      rw [hothers b2 hb2] at h2
      exact hs.onePerPage b1 b2 y1 y2 h1 h2 ho1 ho2 hd hp
  · rw [hnoRequest] at hq
    cases hq
  · by_cases hb' : b' = b
    · rw [hb', hb] at hy'
      cases hy'
      rw [hy]
      exact Nat.zero_le 8
    · exact hs.contributors b' y' ((hothers b' hb').symm.trans hy')
  · rw [hv]
    exact hs.failures
  · rw [hv]
    exact hs.noAnswer

theorem State.works_allocate (s : State) (r : AllocRequest) (b : BufferId) (hr : s.pool.request = some r)
    (hclosed : s.bufferOf .closed r.device r.page = none) :
    s.Works ({ s with pool := { s.pool with request := none } }.allocate b r.device r.page) := by
  obtain ⟨y, hallocates⟩ := s.allocate_allocates r b
  exact ⟨⟨id, fun _ => id, hallocates.poolOk hr hclosed⟩, fun _ _ => id⟩

theorem State.works_serveWith (s : State) (t : Turn) (x : Entry) (sp : Span) (bytes : List Byte) (r : AllocRequest) (b : BufferId)
    (hr : s.pool.request = some r) (hclosed : s.bufferOf .closed r.device r.page = none) :
    s.Works (s.serveWith t x sp bytes r b) := by
  obtain ⟨y, hy, -, hb, -⟩ := s.allocate_allocates r b
  refine (s.works_allocate r b hr hclosed).mergeSpan t x sp bytes b fun y' hy' _ _ => ?_
  cases hy'.symm.trans hb
  rw [hy]
  exact Nat.zero_lt_succ 7

/-! ### The follow-on actions -/

theorem State.works_workRequest (s v : State) (t : Turn) (x : Entry) (sp : Span) (bytes : List Byte) (r : AllocRequest)
    (hr : s.pool.request = some r) (h : s.workRequest t x sp bytes r = some v) : s.Works v := by
  unfold State.workRequest at h
  split at h
  · cases h
  · next hclosed =>
    split at h
    · cases h
      exact s.works_serveWith t x sp bytes r _ hr (by simpa using hclosed)
    · split at h
      · cases h
      · cases h
        exact s.works_applyPressure r hr

theorem State.works_serveRequest (s v : State) (h : s.serveRequest? = some v) : s.Works v := by
  unfold State.serveRequest? at h
  split at h
  · next hr _ =>
    split at h
    · split at h
      · cases h
      · next hclosed =>
        cases h
        exact s.works_serveWith _ _ _ _ _ _ hr (by simpa using hclosed)
    · cases h
  · cases h

theorem State.works_gatherStep (s v : State) (h : s.gatherStep? = some v) : s.Works v := by
  unfold State.gatherStep? at h
  split at h
  · obtain ⟨p, -, rfl⟩ := Option.map_eq_some_iff.1 h
    exact State.Works.refl.startHead _ _
  · split at h
    · cases h
    · split at h
      · split at h
        · cases h
        · cases h
          exact State.Works.refl.takeGatherSpan _ _
      · cases h
      · split at h
        · cases h
          exact s.works_askPool _ _ _ _
        · next hr => exact s.works_workRequest v _ _ _ _ _ hr h

theorem State.works_readStep (s v : State) (h : s.readStep? = some v) : s.Works v := by
  unfold State.readStep? at h
  split at h
  · cases h
    exact State.Works.refl.resumeRead _
  · obtain ⟨e, -, rfl⟩ := Option.map_eq_some_iff.1 h
    exact State.Works.refl.startRead e

theorem State.works_takeStep (s v : State) (c : ChannelId) (h : s.takeStep? c = some v) : s.Works v := by
  obtain ⟨b, -, rfl⟩ := Option.map_eq_some_iff.1 h
  exact State.Works.refl.takeBuffer b

theorem State.Works.beginFrame {s u : State} (h : s.Works u) (c : ChannelId) (d : DevicePos) (x : FrameContent) :
    s.Works (u.beginFrame c d x) := h.mapChannel _ _

theorem State.Works.grantItem {s u : State} (h : s.Works u) (c : ChannelId) (i : WorkItem) : s.Works (u.grantItem c i) :=
  (h.mapChannel _ _).mapChannel _ _

theorem State.Works.grantRevive {s u : State} (h : s.Works u) (c : ChannelId) (d : DevicePos) (e : EntryId) :
    s.Works (u.grantRevive c d e) := by
  unfold State.grantRevive
  split
  · exact h.goDone e _
  · exact h.beginFrame c d _
  · exact h.goDone e _

theorem State.Works.grantHostRead {s u : State} (h : s.Works u) (c : ChannelId) (d : DevicePos) :
    s.Works (u.grantHostRead c d) := by
  unfold State.grantHostRead
  split
  · exact h
  · dsimp only
    split
    · exact h.assemble _ _ _
    · exact h.beginFrame c d _

theorem State.Works.grantBufferRead {s u : State} (h : s.Works u) (c : ChannelId) (d : DevicePos) (b : BufferId)
    (p : StreamPurpose) : s.Works (u.grantBufferRead c d b p) := by
  unfold State.grantBufferRead
  split
  · exact h
  · exact h.beginFrame c d _

theorem State.Works.grantStart {s u : State} (h : s.Works u) (c : ChannelId) (d : DevicePos) (b : BufferId) :
    s.Works (u.grantStart c d b) := by
  unfold State.grantStart
  split
  · exact h
  · exact (h.mapBuffer b (fun y => { y with attempts := y.attempts + 1 }) fun _ _ => ⟨rfl, rfl, id, id, id⟩).beginFrame c d _

theorem State.works_actOnItem (s : State) (c : ChannelId) (i : WorkItem) : s.Works (s.actOnItem c i) := by
  have hgrant := State.Works.refl (s := s).grantItem c i
  unfold State.actOnItem
  split
  · exact hgrant.grantRevive c _ _
  · exact hgrant.beginFrame c _ _
  · split
    · exact (State.Works.refl.mapChannel c _).parkRead _ _
    · exact hgrant.grantHostRead c _
  · exact hgrant.beginFrame c _ _
  · exact hgrant.grantBufferRead c _ _ _
  · exact hgrant.grantBufferRead c _ _ _
  · exact hgrant.grantStart c _ _

theorem State.works_grantStep (s v : State) (c : ChannelId) (h : s.grantStep? c = some v) : s.Works v := by
  unfold State.grantStep? at h
  split at h
  · cases h
  · obtain ⟨i, -, rfl⟩ := Option.map_eq_some_iff.1 h
    exact s.works_actOnItem c i

/-- R150: the end of the load leaves the phase clear. -/
theorem State.works_loadEnd (s v : State) (h : s.loadEnd? = some v) : s.Works v := by
  unfold State.loadEnd? at h
  split at h
  · have hphase := State.Works.refl (s := s).setPhase none nofun
    cases h
    dsimp only
    split
    · exact hphase.trans (.of_eq rfl rfl rfl rfl rfl rfl)
    · exact hphase.trans (.of_eq rfl rfl rfl rfl rfl rfl)
  · cases h

theorem State.works_drainEnd (s v : State) (h : s.drainEnd? = some v) : s.Works v := by
  unfold State.drainEnd? at h
  split at h
  · cases h
    exact .of_eq rfl rfl rfl rfl rfl rfl
  · cases h

theorem State.works_advance (s v : State) (h : s.advance? = some v) : s.Works v := by
  rcases s.advance_cases v h with h | h | h | h | h | h | h | h
  · exact s.works_gatherStep v h
  · exact s.works_readStep v h
  · exact s.works_takeStep v 0 h
  · exact s.works_takeStep v 1 h
  · exact s.works_grantStep v 0 h
  · exact s.works_grantStep v 1 h
  · exact s.works_loadEnd v h
  · exact s.works_drainEnd v h

/-- R180: no follow-on action leaves HALTED. -/
theorem State.advance_halted (s v : State) (hs : s.host.part = .halted) (h : s.advance? = some v) : v.host.part = .halted := by
  have hmode (k : v.mode = s.mode) : v.host.part = .halted := (congrArg Prod.fst k).trans hs
  rcases s.advance_cases v h with h | h | h | h | h | h | h | h
  · exact hmode (s.mode_gatherStep v h)
  · exact hmode (s.mode_readStep v h)
  · exact hmode (s.mode_takeStep 0 v h)
  · exact hmode (s.mode_takeStep 1 v h)
  · exact hmode (s.mode_grantStep 0 v h)
  · exact hmode (s.mode_grantStep 1 v h)
  · simp [State.loadEnd?, hs] at h
  · simp [State.drainEnd?, hs] at h

theorem State.works_settle (s : State) : s.Works s.settle :=
  State.settle_induction (fun u => s.Works u) (fun u v hu h => hu.trans (u.works_advance v h)) s .refl

theorem State.settle_halted (s : State) (h : s.host.part = .halted) : s.settle.host.part = .halted :=
  State.settle_induction (fun u => u.host.part = .halted) (fun u v hu h => u.advance_halted v hu h) s h

end Sys2Proof.Machine
end

section
/-! PROOFS. What a command makes of a state, before the end of its event and after it: `State.Effect`, and the commands that are work inside
the part: the starts and actions (R85, R96, R108, R111, R116, R150, R167), the ends of frames and the expiries of timers (R14, R24, R30 to
R36, R43, R53, R59, R122, R148). -/

namespace Sys2Proof.Machine

/-! ### The effect of a command -/

/-- What command `c` makes of `s`, before the end of its event or after it: the commands that wait stay, the pool stays in order;
HALTED with an idle engine stays so (R180); a FAULT flag that is set stays, but for a FAULT write (R175); a GUARDED zone entry
stays, but for the start-up load and a change of the guard line (R138, R139); an entry keeps its identity (R70), but for the one
whose completion record has been written (R173). The two resets are not met here. -/
structure State.Effect (s : State) (c : Instr) (u : State) : Prop where
  pending : u.pending = s.pending
  pool : s.PoolOk → u.PoolOk
  halted : (∀ bw, c ≠ .hrstRelease bw) → s.host.part = .halted → s.host.engine = none →
    u.host.part = .halted ∧ u.host.engine = none
  flags : (∀ v, c ≠ .faultWrite v) → ∀ f, s.flag f = true → u.flag f = true
  zones : (∀ bytes, c ≠ .copyBReadEnd bytes) → (∀ bw, c ≠ .hrstRelease bw) → (∀ a, c ≠ .grdChange a) →
    ∀ i z, s.GuardedAt i z → u.GuardedAt i z
  identities : ∀ e, (∀ h, s.host.engine = some h → h.job = .completionWrite e → c ≠ .completionWriteEnd .complete) →
    ∀ x, s.entry? e = some x → ∃ y, u.entry? e = some y ∧ y.identity = x.identity

theorem State.Effect.refl (s : State) (c : Instr) : s.Effect c s where
  pending := rfl
  pool := id
  halted _ hpart hidle := ⟨hpart, hidle⟩
  flags _ _ := id
  zones _ _ _ _ _ := id
  identities _ _ x hx := ⟨x, hx, rfl⟩

/-- Work after the effect: it changes no identity, and does not leave HALTED. -/
theorem State.Effect.trans {s u v : State} {c : Instr} (h : s.Effect c u) (hworks : u.Works v) (hkept : v.kept = u.kept)
    (hhalted : u.host.part = .halted → v.host.part = .halted) : s.Effect c v where
  pending := (congrArg Kept.pending hkept).trans h.pending
  pool := hworks.pool ∘ h.pool
  halted hc hpart hidle :=
    have hu := h.halted hc hpart hidle
    ⟨hhalted hu.1, hworks.bus hu.2⟩
  flags hc f := hworks.flags f ∘ h.flags hc f
  zones hc hr hg i z := hworks.zones i z ∘ h.zones hc hr hg i z
  identities e hc x hx := by
    obtain ⟨y, hy, hyx⟩ := h.identities e hc x hx
    have hid := State.entry_identity_of_kept hkept e
    rw [hy] at hid
    obtain ⟨z, hz, hzy⟩ := Option.map_eq_some_iff.1 hid
    exact ⟨z, hz, hzy.trans hyx⟩

/-- R159: the grant at the end of an event. In HALTED nothing is granted. -/
theorem State.Effect.hostSide {s u : State} {c : Instr} (h : s.Effect c u) : s.Effect c u.hostSide := by
  obtain ⟨engine, requests, setupRequest, urgentRun, hgrant⟩ := u.grantMaster_frame
  have hframe : u.hostSide = State.updateIntreq { u with
      host := { u.host with engine := engine, requests := requests, setupRequest := setupRequest }
      fetch := { u.fetch with urgentRun := urgentRun } } := by rw [State.hostSide, hgrant]
  refine ⟨?_, fun hs => ?_, fun hc hpart hidle => ?_, fun hc f hf => ?_, fun hc hr hg i z hz => ?_, fun e hc x hx => ?_⟩
  · rw [hframe]
    exact h.pending
  · rw [hframe]
    exact State.PoolTame.poolOk (s := u) (.of_eq rfl rfl) (h.pool hs)
  · obtain ⟨hpart', hidle'⟩ := h.halted hc hpart hidle
    rw [State.hostSide, State.updateIntreq_host, u.grantMaster_halted hpart']
    exact ⟨hpart', hidle'⟩
  · rw [hframe]
    exact h.flags hc f hf
  · rw [hframe]
    exact h.zones hc hr hg i z hz
  · rw [hframe]
    exact h.identities e hc x hx

/-- The end of an event adds work inside the part, the joining of the done queue, and the grant. -/
theorem State.Effect.conclude {s u : State} {c : Instr} (h : s.Effect c u) : s.Effect c u.conclude :=
  ((h.trans u.works_settle u.kept_settle u.settle_halted).trans State.Works.refl.joinStarted (by simp) id).hostSide

/-- A command that is an event. -/
theorem State.Effect.of_react {s t : State} {c : Instr} {f : State → Option State} (h : s.react f = .next t)
    (hf : ∀ u, f s.newEvent = some u → s.Effect c u) : s.Effect c t := by
  rcases s.react_cases f with ⟨-, heq⟩ | ⟨-, -, heq⟩ | ⟨-, u, hu, heq⟩
  · cases heq.symm.trans h
    exact .refl s c
  · cases heq.symm.trans h
    exact .refl s c
  · cases heq.symm.trans h
    exact (hf u hu).conclude

/-- A register write that only the host side answers to. -/
theorem State.Effect.of_access {s t : State} {c : Instr} {f : State → State} (h : s.access f = .next t)
    (hf : s.Effect c (f s)) : s.Effect c t := by
  cases hrst : s.pins.hrst with
  | true =>
    cases (s.access_held f hrst).symm.trans h
    exact .refl s c
  | false =>
    cases (s.access_run f hrst).symm.trans h
    exact hf

/-- An effect beside the tables, the pool, the zones and FAULT. -/
theorem State.Effect.of_frame {s u : State} {c : Instr} (hpending : u.pending = s.pending) (hworks : s.Works u)
    (hhalted : s.host.part = .halted → s.host.engine = none → u.host.part = .halted) (hentries : ∀ e, u.entry? e = s.entry? e) :
    s.Effect c u where
  pending := hpending
  pool := hworks.pool
  halted _ hpart hidle := ⟨hhalted hpart hidle, hworks.bus hidle⟩
  flags _ := hworks.flags
  zones _ _ _ := hworks.zones
  identities e _ x hx := ⟨x, (hentries e).trans hx, rfl⟩

theorem State.effect_newEvent (s : State) (c : Instr) : s.Effect c s.newEvent :=
  .of_frame rfl (.of_eq rfl rfl rfl rfl rfl rfl) (fun h _ => h) fun _ => rfl

/-- Work inside the part as an event of its own. -/
structure State.Inner (s u : State) : Prop where
  works : s.Works u
  kept : u.kept = s.kept
  halted : s.host.part = .halted → u.host.part = .halted

theorem State.Inner.of_mode {s u : State} (hworks : s.Works u) (hkept : u.kept = s.kept) (hmode : u.mode = s.mode) : s.Inner u :=
  ⟨hworks, hkept, fun h => (congrArg Prod.fst hmode).trans h⟩

theorem State.Effect.of_inner {s u : State} {c : Instr} (h : s.newEvent.Inner u) : s.Effect c u :=
  (s.effect_newEvent c).trans h.works h.kept h.halted

/-- A command that is work inside the part. -/
theorem State.Effect.of_work {s t : State} {c : Instr} {f : State → Option State} (h : s.react f = .next t)
    (hf : ∀ v u : State, f v = some u → v.Inner u) : s.Effect c t :=
  .of_react h fun u hu => .of_inner (hf _ u hu)

/-! ### Starts and actions inside the part -/

theorem State.inner_startIf {s u : State} {k : Kind} {start : EntryId → Entry → State} (h : s.startIf k start = some u)
    (hstart : ∀ e x, s.Inner (start e x)) : s.Inner u := by
  unfold State.startIf at h
  split at h
  · split at h
    · cases h
      exact hstart _ _
    · cases h
  · cases h

theorem State.inner_actIf {s u : State} {k : Kind} {act : EntryId → Entry → State} (h : s.actIf k act = some u)
    (hact : ∀ e x, s.Inner (act e x)) : s.Inner u := by
  unfold State.actIf at h
  split at h
  · split at h
    · cases h
      exact hact _ _
    · cases h
  · cases h

/-- The starts and actions that an event of the part brings about (R85, R96, R108, R111, R116, R150, R167). -/
theorem exec_start_effect {c : Instr} {s t : State} (h : exec c s = .next t)
    (hc : c ∈ [.writeStart, .fillStart, .readStart, .readResume, .flushStart, .setZoneStart, .setGeometryStart, .storeProfileStart,
      .allocationRequestServed, .durableOrderEnd, .flushReport, .setZoneAction, .setGeometryApply, .storeProfileBuild, .loadEnd,
      .drainEnd]) : s.Effect c t := by
  simp only [List.mem_cons, List.not_mem_nil, or_false] at hc
  rcases hc with rfl | rfl | rfl | rfl | rfl | rfl | rfl | rfl | rfl | rfl | rfl | rfl | rfl | rfl | rfl | rfl
  · rw [exec, execWriteStart] at h
    exact .of_work h fun v u hu => State.inner_startIf hu fun e x => .of_mode (State.Works.refl.startMerging e x _) (by simp) (by simp)
  · rw [exec, execFillStart] at h
    exact .of_work h fun v u hu => State.inner_startIf hu fun e x => .of_mode (State.Works.refl.startMerging e x _) (by simp) (by simp)
  · rw [exec, execReadStart] at h
    refine .of_work h fun v u hu => ?_
    obtain ⟨e, -, rfl⟩ := Option.map_eq_some_iff.1 hu
    exact .of_mode (State.Works.refl.startRead e) (by simp) (by simp)
  · rw [exec, execReadResume] at h
    refine .of_work h fun v u hu => ?_
    obtain ⟨e, -, rfl⟩ := Option.map_eq_some_iff.1 hu
    exact .of_mode (State.Works.refl.resumeRead e) (by simp) (by simp)
  · rw [exec, execFlushStart] at h
    exact .of_work h fun v u hu => State.inner_startIf hu fun e x => .of_mode (State.Works.refl.startFlush e x) (by simp) (by simp)
  · rw [exec, execSetZoneStart] at h
    exact .of_work h fun v u hu => State.inner_startIf hu fun e x => .of_mode (State.Works.refl.startSetZone e x) (by simp) (by simp)
  · rw [exec, execSetGeometryStart] at h
    exact .of_work h fun v u hu => State.inner_startIf hu fun e x => .of_mode (State.Works.refl.startSetGeometry e x) (by simp) (by simp)
  · rw [exec, execStoreProfileStart] at h
    exact .of_work h fun v u hu => State.inner_startIf hu fun e _ => .of_mode (State.Works.refl.startStoreProfile e) (by simp) (by simp)
  · rw [exec, execAllocationRequestServed] at h
    exact .of_work h fun v u hu => .of_mode (v.works_serveRequest u hu) (v.kept_serveRequest u hu).1 (v.mode_serveRequest u hu)
  · rw [exec, execDurableOrderEnd] at h
    refine .of_work h fun v u hu => ?_
    obtain ⟨e, -, rfl⟩ := Option.map_eq_some_iff.1 hu
    exact .of_mode (State.Works.refl.endDurable e) (by simp) (by simp)
  · rw [exec, execFlushReport] at h
    refine .of_work h fun v u hu => ?_
    split at hu
    · cases hu
    · cases hu
      exact .of_mode State.Works.refl.reportFlushes (by simp) (by simp)
  · rw [exec, execSetZoneAction] at h
    exact .of_work h fun v u hu => State.inner_actIf hu fun e x => .of_mode (State.Works.refl.actSetZone e x) (by simp) (by simp)
  · rw [exec, execSetGeometryApply] at h
    exact .of_work h fun v u hu => State.inner_actIf hu fun e x => .of_mode (State.Works.refl.actSetGeometry e x) (by simp) (by simp)
  · rw [exec, execStoreProfileBuild] at h
    exact .of_work h fun v u hu => State.inner_actIf hu fun e _ => .of_mode (State.Works.refl.actStoreProfile e) (by simp) (by simp)
  · rw [exec, execLoadEnd] at h
    refine .of_work h fun v u hu => ⟨v.works_loadEnd u hu, (v.kept_loadEnd u hu).1, fun hv => ?_⟩
    simp [State.loadEnd?, hv] at hu
  · rw [exec, execDrainEnd] at h
    refine .of_work h fun v u hu => ⟨v.works_drainEnd u hu, (v.kept_drainEnd u hu).1, fun hv => ?_⟩
    simp [State.drainEnd?, hv] at hu

/-! ### Frames and timers -/

theorem State.inner_frameEnd {α : Type} {s u : State} {c : ChannelId} {kind : FrameContent → Option α}
    {act : State → DevicePos → α → State} (h : s.frameEnd c kind act = some u)
    (hact : ∀ (v : State) d a, s.Inner v → s.Inner (act v d a)) : s.Inner u := by
  have hfree : s.Inner (s.freeChannel c) := .of_mode (State.Works.refl.freeChannel c) rfl rfl
  unfold State.frameEnd at h
  split at h
  · cases h
  · obtain ⟨a, -, rfl⟩ := Option.map_eq_some_iff.1 h
    split
    · exact hfree
    · exact hact _ _ _ hfree

theorem State.Inner.trans {s u v : State} (h : s.Inner u) (k : u.Inner v) : s.Inner v :=
  ⟨h.works.trans k.works, k.kept.trans h.kept, k.halted ∘ h.halted⟩

theorem State.inner_goOffline (s : State) (d : DevicePos) (c : Cause) : s.Inner (s.goOffline d c) :=
  .of_mode (State.Works.refl.goOffline d c) (by simp) (by simp)

/-- R37: a no-answer count of three ends in the loss of the device. -/
theorem State.inner_countNoAnswer (s : State) (d : DevicePos) (goOn : DeviceRecord → DeviceRecord)
    (hcount : ∀ r, (goOn r).noAnswer = r.noAnswer) : s.Inner (s.countNoAnswer d goOn) := by
  unfold State.countNoAnswer
  split
  · exact s.inner_goOffline d _
  · next hless => exact .of_mode (State.Works.refl.mapDevice d _ fun _ => by rw [hcount]; dsimp only; omega) rfl rfl

theorem State.inner_withSlot (s : State) (d : DevicePos) (act : State → BufferId → State) (hact : ∀ b, s.Inner (act s b)) :
    s.Inner (s.withSlot d act) := by
  unfold State.withSlot
  split
  · exact hact _
  · exact .of_mode .refl rfl rfl

theorem State.inner_failAttempt (s : State) (b : BufferId) (c : Cause) : s.Inner (s.failAttempt b c) :=
  .of_mode (State.Works.refl.failAttempt b c) (by simp) (by simp)

theorem State.inner_enterIdle (s : State) (d : DevicePos) : s.Inner (s.enterIdle d) :=
  .of_mode (State.Works.refl.enterIdle d) (by simp) (by simp)

theorem State.inner_goDone (s : State) (e : EntryId) (r : Result) : s.Inner (s.goDone e r) :=
  .of_mode (State.Works.refl.goDone e r) (by simp) (by simp)

theorem State.inner_mapDevice (s : State) (d : DevicePos) (f : DeviceRecord → DeviceRecord)
    (hf : (s.device d).noAnswer ≤ 2 → (f (s.device d)).noAnswer ≤ 2) : s.Inner (s.mapDevice d f) :=
  .of_mode (State.Works.refl.mapDevice d f hf) rfl rfl

theorem State.inner_loadEnded (s : State) (d : DevicePos) : s.Inner (s.loadEnded d) :=
  .of_mode ((State.Works.refl.mapDevice d _ id).queueItem d _) rfl rfl

theorem State.inner_confirmed (s : State) (d : DevicePos) (a : Answer) : s.Inner (s.confirmed d a) := by
  unfold State.confirmed
  split
  · exact s.inner_mapDevice d _ fun _ => Nat.zero_le 2
  · exact (s.inner_mapDevice d _ fun _ => Nat.zero_le 2).trans (State.inner_withSlot _ d _ fun b => State.inner_failAttempt _ b _)
  · exact s.inner_countNoAnswer d _ fun _ => rfl

theorem State.inner_polled (s : State) (d : DevicePos) (a : Answer) : s.Inner (s.polled d a) := by
  unfold State.polled
  split
  · exact s.inner_mapDevice d _ fun _ => Nat.zero_le 2
  · exact (s.inner_enterIdle d).trans (State.inner_withSlot _ d _ fun b =>
      .of_mode (State.Works.refl.cycleGood b) (by simp) (by simp))
  · exact (s.inner_enterIdle d).trans (State.inner_withSlot _ d _ fun b => State.inner_failAttempt _ b _)
  · exact s.inner_countNoAnswer d _ fun _ => rfl

theorem State.inner_wakeAnswered (s : State) (d : DevicePos) (a : Answer) : s.Inner (s.wakeAnswered d a) := by
  unfold State.wakeAnswered
  split
  · exact s.inner_enterIdle d
  · exact s.inner_mapDevice d _ fun _ => Nat.zero_le 2
  · exact s.inner_countNoAnswer d _ fun _ => rfl

theorem State.inner_reviveAnswered (s : State) (d : DevicePos) (e : EntryId) (a : Answer) : s.Inner (s.reviveAnswered d e a) := by
  unfold State.reviveAnswered
  split
  · exact s.inner_goDone e _
  · split
    · exact (s.inner_enterIdle d).trans (State.inner_goDone _ e _)
    · exact s.inner_goDone e _

theorem State.inner_filled (s : State) (d : DevicePos) (b : BufferId) (bytes : List Byte) : s.Inner (s.filled d b bytes) := by
  refine .of_mode (State.Works.queueStart (State.Works.refl.mapBuffer b _ ?_) b d) rfl rfl
  exact fun _ _ => ⟨rfl, rfl, id, id, id⟩

theorem State.inner_verified (s : State) (b : BufferId) (bytes : List Byte) : s.Inner (s.verified b bytes) := by
  unfold State.verified
  split
  · exact .of_mode .refl rfl rfl
  · split
    · exact .of_mode (State.Works.refl.succeed b) (by simp) (by simp)
    · exact s.inner_failAttempt b _

theorem State.inner_hostReadEnded (s : State) (address : Nat) (bytes : List Byte) : s.Inner (s.hostReadEnded address bytes) := by
  unfold State.hostReadEnded
  split
  · exact .of_mode .refl rfl rfl
  · exact .of_mode (State.Works.refl.overlayRead _ _ _ _) (by simp) (by simp)

theorem State.inner_copyARead (s : State) (bytes : List Byte) : s.Inner (s.copyARead bytes) := by
  have hphase := State.Works.refl (s := s).setPhase (some .readB) (by decide)
  refine .of_mode (State.Works.queueItem ?_ 0 _) rfl rfl
  exact hphase.trans (.of_eq rfl rfl rfl rfl rfl rfl)

/-- R149: the choice of a profile replaces the zone table, and touches no flag, buffer or order. -/
theorem State.effect_copyBRead {s u : State} (bytes : List Byte)
    (h : s.newEvent.frameEnd 0 (FrameContent.isCopy .b) (fun s _ _ => s.copyBRead (clocked 256 bytes)) = some u) :
    s.Effect (.copyBReadEnd bytes) u := by
  have hcalm : s.newEvent.Calm u ∧ u.kept = s.newEvent.kept ∧ u.mode = s.mode := by
    unfold State.frameEnd at h
    split at h
    · cases h
    · obtain ⟨-, -, rfl⟩ := Option.map_eq_some_iff.1 h
      split
      · exact ⟨(State.Works.refl.freeChannel 0).toCalm, rfl, rfl⟩
      · refine ⟨?_, ?_, ?_⟩
        · refine State.Calm.trans ?_ (State.calm_chooseProfile _ _ _)
          exact ⟨id, fun _ => id, State.PoolTame.poolOk (.of_eq rfl rfl)⟩
        · unfold State.copyBRead
          dsimp only
          rw [State.kept_chooseProfile]
          rfl
        · unfold State.copyBRead
          dsimp only
          rw [State.mode_chooseProfile]
          rfl
  obtain ⟨hcalm, hkept, hmode⟩ := hcalm
  exact {
    pending := congrArg Kept.pending hkept
    pool := hcalm.pool ∘ (s.effect_newEvent .drainEnd).pool
    halted := fun _ hpart hidle => ⟨(congrArg Prod.fst hmode).trans hpart, hcalm.bus hidle⟩
    flags := fun _ => hcalm.flags
    zones := fun hc => absurd rfl (hc bytes)
    identities := fun e _ x hx => by
      have hid := State.entry_identity_of_kept hkept e
      rw [State.newEvent_entry, hx] at hid
      exact Option.map_eq_some_iff.1 hid }

/-- The ends of frames and the expiries of timers. -/
theorem exec_frame_effect {c : Instr} {s t : State} (h : exec c s = .next t)
    (hc : match c with
      | .lingerExpiry _ | .pageLoadEnd _ | .confirmingAskEnd _ _ | .pollEnd _ _ | .wakeAskEnd _ _ | .reviveAskEnd _ _
      | .fillReadEnd _ _ | .verifyReadEnd _ _ | .hostReadFrameEnd _ _ | .copyAReadEnd _ | .copyBReadEnd _ | .pollTimerExpiry _
      | .wakeLimitExpiry _ | .cycleTimerExpiry _ => True
      | _ => False) : s.Effect c t := by
  cases c with
  | lingerExpiry b =>
    rw [exec, execLingerExpiry] at h
    refine .of_work h fun v u hu => ?_
    split at hu
    · split at hu
      · cases hu
        exact .of_mode (State.Works.refl.closeBuffer b) (by simp) (by simp)
      · cases hu
    · cases hu
  | pageLoadEnd c =>
    rw [exec, execPageLoadEnd] at h
    exact .of_work h fun v u hu => State.inner_frameEnd hu fun w d _ hw => hw.trans (w.inner_loadEnded d)
  | confirmingAskEnd c st =>
    rw [exec, execConfirmingAskEnd] at h
    exact .of_work h fun v u hu => State.inner_frameEnd hu fun w d _ hw => hw.trans (w.inner_confirmed d _)
  | pollEnd c st =>
    rw [exec, execPollEnd] at h
    exact .of_work h fun v u hu => State.inner_frameEnd hu fun w d _ hw => hw.trans (w.inner_polled d _)
  | wakeAskEnd c st =>
    rw [exec, execWakeAskEnd] at h
    exact .of_work h fun v u hu => State.inner_frameEnd hu fun w d _ hw => hw.trans (w.inner_wakeAnswered d _)
  | reviveAskEnd c st =>
    rw [exec, execReviveAskEnd] at h
    exact .of_work h fun v u hu => State.inner_frameEnd hu fun w d e hw => hw.trans (w.inner_reviveAnswered d e _)
  | fillReadEnd c bytes =>
    rw [exec, execFillReadEnd] at h
    exact .of_work h fun v u hu => State.inner_frameEnd hu fun w d p hw => hw.trans (w.inner_filled d p.1 _)
  | verifyReadEnd c bytes =>
    rw [exec, execVerifyReadEnd] at h
    exact .of_work h fun v u hu => State.inner_frameEnd hu fun w _ p hw => hw.trans (w.inner_verified p.1 _)
  | hostReadFrameEnd c bytes =>
    rw [exec, execHostReadFrameEnd] at h
    exact .of_work h fun v u hu => State.inner_frameEnd hu fun w _ p hw => hw.trans (w.inner_hostReadEnded p.1 _)
  | copyAReadEnd bytes =>
    rw [exec, execCopyAReadEnd] at h
    exact .of_work h fun v u hu => State.inner_frameEnd hu fun w _ _ hw => hw.trans (w.inner_copyARead _)
  | copyBReadEnd bytes =>
    rw [exec, execCopyBReadEnd] at h
    exact .of_react h fun u hu => State.effect_copyBRead bytes hu
  | pollTimerExpiry d =>
    rw [exec, execPollTimerExpiry] at h
    refine .of_work h fun v u hu => ?_
    split at hu
    · obtain ⟨p, -, rfl⟩ := Option.map_eq_some_iff.1 hu
      exact .of_mode ((State.Works.refl.mapDevice d _ id).queueItem d _) rfl rfl
    · cases hu
  | wakeLimitExpiry d =>
    rw [exec, execWakeLimitExpiry] at h
    refine .of_work h fun v u hu => ?_
    split at hu
    · cases hu
      exact v.inner_goOffline d _
    · cases hu
  | cycleTimerExpiry d =>
    rw [exec, execCycleTimerExpiry] at h
    refine .of_work h fun v u hu => ?_
    split at hu
    · cases hu
      exact v.inner_goOffline d _
    · cases hu
  | _ => exact hc.elim

end Sys2Proof.Machine
end

section
/-! PROOFS. What the other commands make of a state: the ends of bursts and transfers, the fetched orders, the register writes and the
lines, and the two resets (`State.After`); and the obligations EveryCommandAnswersNext, PoolStaysTogether, EntryIdentityNeverChanges,
GuardedZoneStays, HaltedAndFlagsStay, and the refutation of HostSideStaysTogether. -/

namespace Sys2Proof.Machine

/-! ### Transfers on the bus -/

theorem State.onBus_is {s : State} {kind : Job → Bool} {ready : Transfer → Bool} {x : Transfer} (h : s.onBus kind ready = some x) :
    s.host.engine = some x ∧ kind x.job = true ∧ ready x = true := by
  unfold State.onBus at h
  split at h
  · next y hy =>
    split at h
    · next hok =>
      cases h
      exact ⟨hy, by simpa using hok⟩
    · cases h
  · cases h

/-- The end of a burst while no local reset is pending: an engine that was busy may become idle. -/
theorem State.Effect.of_busy {s u : State} {c : Instr} {x : Transfer} (hbusy : s.host.engine = some x) (hpending : u.pending = s.pending)
    (hworks : s.Works u) (hids : ∀ e, (∀ h, s.host.engine = some h → h.job = .completionWrite e → c ≠ .completionWriteEnd .complete) →
      ∀ y, s.entry? e = some y → ∃ z, u.entry? e = some z ∧ z.identity = y.identity) : s.Effect c u where
  pending := hpending
  pool := hworks.pool
  halted _ _ hidle := nomatch hbusy.symm.trans hidle
  flags _ := hworks.flags
  zones _ _ _ := hworks.zones
  identities := hids

/-- Work after the event has begun. -/
theorem State.newEvent_works {s u : State} (h : s.newEvent.Works u) : s.Works u :=
  State.Works.trans (u := s.newEvent) (.of_eq rfl rfl rfl rfl rfl rfl) h

/-- The end of a burst that leaves what `State.kept` collects. -/
theorem State.Effect.of_busy_kept {s u : State} {c : Instr} {x : Transfer} (hbusy : s.host.engine = some x)
    (hworks : s.newEvent.Works u) (hkept : u.kept = s.newEvent.kept) : s.Effect c u :=
  .of_busy hbusy (congrArg Kept.pending hkept) (s.newEvent_works hworks) fun e _ y hy => by
    have hid := State.entry_identity_of_kept hkept e
    rw [State.newEvent_entry, hy] at hid
    exact Option.map_eq_some_iff.1 hid

/-- R157: the transfer in progress goes on or ends. -/
theorem State.works_setEngine {s : State} {x : Transfer} (hbusy : s.host.engine = some x) (y : Option Transfer) :
    s.Works (s.setEngine y) where
  bus hidle := nomatch hbusy.symm.trans hidle
  flags _ := id
  pool := State.PoolTame.poolOk (.of_eq rfl rfl)
  zones _ _ := id

/-- R177: a halt sets its flag. -/
theorem State.Works.halt {s u : State} (h : s.Works u) (f : FaultFlag) : s.Works (u.halt f) := by
  refine State.Works.setFault ?_ f
  exact h.trans (.of_eq rfl rfl rfl rfl rfl rfl)

/-- R160: the routing of a host fault. -/
theorem State.works_routeFault {s : State} {x : Transfer} (hbusy : s.host.engine = some x) (y : Transfer) :
    s.Works (s.routeFault y) := by
  have hidle := State.works_setEngine hbusy none
  unfold State.routeFault
  dsimp only
  split
  · exact hidle
  · split
    · exact hidle.halt _
    · exact hidle.halt _
    · exact hidle.halt _
    · exact hidle.failWrite
    · split
      · exact hidle.deliveryFailed _ _
      · exact hidle
    · exact hidle.goDone _ _

theorem State.kept_routeFault (s : State) (y : Transfer) : (s.routeFault y).kept = s.kept := by
  unfold State.routeFault
  dsimp only
  split
  · rfl
  · split
    · rfl
    · rfl
    · rfl
    · exact State.kept_failWrite _
    · split
      · exact State.kept_deliveryFailed _ _ _
      · rfl
    · exact State.kept_goDone _ _ _

theorem State.effect_routeFault {s : State} {x : Transfer} (hbusy : s.host.engine = some x) (c : Instr) (y : Transfer) :
    s.Effect c (s.newEvent.routeFault y) :=
  .of_busy_kept hbusy (State.works_routeFault (s := s.newEvent) hbusy y) (State.kept_routeFault _ y)

/-! ### Resets -/

/-- What command `c` makes of `s`: the link reset, a local reset with the event it happens in, or its effect. -/
inductive State.After (s : State) (c : Instr) (t : State) : Prop
  | linkReset (hc : c.isReset = true) (ht : t = s.linkReset)
  | localReset (u : State) (hc : c.isReset = true ∨ s.host.resetPending = true) (hpending : u.pending = s.pending)
      (ht : t = u.localReset.conclude)
  | effect (h : s.Effect c t)

/-- A command that ends a burst (R163): a pending local reset happens, else the command has its effect. -/
theorem State.After.of_bus {s t : State} {c : Instr} {kind : Job → Bool} {ready : Transfer → Bool} {act : Transfer → State → State}
    (h : s.react (fun v => (v.onBus kind ready).map fun x => v.burstEnd (act x)) = .next t)
    (hact : ∀ x, s.host.engine = some x → kind x.job = true → s.Effect c (act x s.newEvent)) : s.After c t := by
  rcases s.react_cases _ with ⟨-, heq⟩ | ⟨-, -, heq⟩ | ⟨-, u, hu, heq⟩
  · cases heq.symm.trans h
    exact .effect (.refl s c)
  · cases heq.symm.trans h
    exact .effect (.refl s c)
  · cases heq.symm.trans h
    obtain ⟨x, hx, rfl⟩ := Option.map_eq_some_iff.1 hu
    obtain ⟨hbusy, hkind, -⟩ := State.onBus_is hx
    unfold State.burstEnd
    split
    · next hpending => exact .localReset (s.newEvent.setBW (Config.bwLevel s.newEvent.event)) (.inr hpending) rfl rfl
    · exact .effect (hact x hbusy hkind).conclude

/-! ### Acceptance -/

theorem State.lowestFreeEntry_free {s : State} {e : EntryId} (h : s.lowestFreeEntry = some e) : s.entry? e = none := by
  have hnone := List.find?_some h
  simpa using hnone

theorem State.advanceHead_frame (s : State) (ring : RingId) :
    s.Works (s.advanceHead ring) ∧ (s.advanceHead ring).pending = s.pending ∧ ∀ e, (s.advanceHead ring).entry? e = s.entry? e := by
  unfold State.advanceHead
  split
  · exact ⟨.refl, rfl, fun _ => rfl⟩
  · cases ring
    · exact ⟨.of_eq rfl rfl rfl rfl rfl rfl, rfl, fun _ => rfl⟩
    · exact ⟨.of_eq rfl rfl rfl rfl rfl rfl, rfl, fun _ => rfl⟩

/-- R70, R71: the filling of a free entry, and work after it, leave every other entry its identity. -/
theorem State.identity_of_filled {s v : State} {e : EntryId} {z : Entry} (hfree : s.entry? e = none)
    (hv : ∀ e', (v.entry? e').map Entry.identity = ((s.putEntry e z).entry? e').map Entry.identity) (e' : EntryId) (y : Entry)
    (hy : s.entry? e' = some y) : ∃ w, v.entry? e' = some w ∧ w.identity = y.identity := by
  have hne : e' ≠ e := by
    rintro rfl
    cases hfree.symm.trans hy
  have hid := hv e'
  rw [State.entry_putEntry, if_neg hne, hy] at hid
  exact Option.map_eq_some_iff.1 hid

/-- R71 to R76: an acceptance fills a free entry and hands it on. -/
theorem State.effect_acceptRecord {s : State} {x : Transfer} (hbusy : s.host.engine = some x) (c : Instr) (ring : RingId) (slot : Nat)
    (k : Kind) (r : OrderRecord) (handOn : EntryId → State → State)
    (hhands : ∀ e (v : State), v.Works (handOn e v) ∧ (handOn e v).kept = v.kept) :
    s.Effect c (s.newEvent.acceptRecord ring slot k r handOn) := by
  have hengine : s.Works (s.newEvent.setEngine none) := s.newEvent_works (State.works_setEngine (s := s.newEvent) hbusy none)
  obtain ⟨hhead, hpending, hentries⟩ := (s.newEvent.setEngine none).advanceHead_frame ring
  replace hhead := hengine.trans hhead
  replace hpending : _ = s.pending := hpending
  replace hentries : ∀ e, _ = s.entry? e := hentries
  unfold State.acceptRecord
  dsimp only
  generalize (s.newEvent.setEngine none).advanceHead ring = u at hhead hpending hentries
  split
  · exact .of_busy hbusy hpending hhead fun e _ y hy => ⟨y, (hentries e).trans hy, rfl⟩
  · next e hlowest =>
    have hfree := State.lowestFreeEntry_free hlowest
    split
    · obtain ⟨hworks, hkept⟩ := hhands e (u.numbered e ring slot k r)
      change s.Effect c (handOn e (u.numbered e ring slot k r))
      refine .of_busy hbusy ((congrArg Kept.pending hkept).trans hpending) (State.Works.trans ?_ hworks) fun e' _ y hy =>
        State.identity_of_filled (z := .ofRecord ring slot k r (some u.orders.sequence)) hfree
          (State.entry_identity_of_kept (s := u.numbered e ring slot k r) hkept) e' y
          ((hentries e').trans hy)
      exact (hhead.putEntry e (.ofRecord ring slot k r (some u.orders.sequence))).trans (.of_eq rfl rfl rfl rfl rfl rfl)
    · have hkept := (u.putEntry e (.ofRecord ring slot k r none)).kept_goDone e (.plain .badOrder 0)
      exact .of_busy hbusy ((congrArg Kept.pending hkept).trans hpending) ((hhead.putEntry e _).goDone e _) fun e' _ y hy =>
        State.identity_of_filled hfree (State.entry_identity_of_kept hkept) e' y ((hentries e').trans hy)


theorem State.After.of_accept {s t : State} {c : Instr} {k : Kind} {r : OrderRecord} {handOn : EntryId → State → State}
    (h : s.accept k r handOn = .next t) (hhands : ∀ e (v : State), v.Works (handOn e v) ∧ (handOn e v).kept = v.kept) :
    s.After c t := by
  refine .of_bus h fun x hbusy _ => ?_
  split
  · exact State.effect_acceptRecord hbusy c _ _ k r handOn hhands
  · exact s.effect_newEvent c

theorem State.works_cancelOne (s : State) (e : EntryId) : s.Works (s.cancelOne e) := by
  refine State.Works.goDone ?_ e _
  exact .of_eq rfl rfl rfl rfl rfl rfl

/-- R86. -/
theorem works_carryOutCancel (r : OrderRecord) (e : EntryId) (s : State) : s.Works (carryOutCancel r e s) :=
  ((State.Works.refl.mapEntry e _).trans (.foldl _ (fun u e' => u.works_cancelOne e') _ _)).goDone e _

/-- R88. -/
theorem works_handToRevive (r : OrderRecord) (e : EntryId) (s : State) : s.Works (handToRevive r e s) := by
  unfold handToRevive
  split
  · exact State.Works.refl.goDone e _
  · exact (State.Works.refl.mapEntry e _).queueItem _ _
  · exact State.Works.refl.goDone e _
  · exact State.Works.refl.goDone e _
  · exact State.Works.refl.goDone e _

/-- The fetched orders. -/
theorem exec_fetched_after {c : Instr} {s t : State} (h : exec c s = .next t)
    (hc : match c with
      | .read _ | .write _ | .fill _ | .flush _ | .setZone _ | .setGeometry _ | .storeProfile _ | .cancel _ | .revive _ | .report _
      | .unknownKind _ _ => True
      | _ => False) : s.After c t := by
  have hreader (e : EntryId) (v : State) : v.Works (handToReader e v) ∧ (handToReader e v).kept = v.kept :=
    ⟨.of_eq rfl rfl rfl rfl rfl rfl, rfl⟩
  have hgather (e : EntryId) (v : State) : v.Works (handToGather e v) ∧ (handToGather e v).kept = v.kept :=
    ⟨.of_eq rfl rfl rfl rfl rfl rfl, rfl⟩
  cases c with
  | read r => exact .of_accept h hreader
  | write r => exact .of_accept h hgather
  | fill r => exact .of_accept h hgather
  | flush r => exact .of_accept h hgather
  | setZone r => exact .of_accept h hgather
  | setGeometry r => exact .of_accept h hgather
  | storeProfile r => exact .of_accept h hgather
  | cancel r => exact .of_accept h fun e v => ⟨works_carryOutCancel r e v, (handsOn_carryOutCancel r e v).kept⟩
  | revive r => exact .of_accept h fun e v => ⟨works_handToRevive r e v, (handsOn_handToRevive r e v).kept⟩
  | report r =>
    exact .of_accept h fun e v => ⟨(State.Works.refl.mapEntry e _).requestMaster _ _, (handsOn_takeReport e v).kept⟩
  | unknownKind code r => exact .of_accept h fun _ _ => ⟨.refl, rfl⟩
  | _ => exact hc.elim

/-! ### The ends of bursts -/

/-- R173: the entry whose completion record has been written is free. -/
theorem State.entry_posted (s : State) (e e' : EntryId) : (s.posted e).entry? e' = if e' = e then none else s.entry? e' := by
  by_cases h : e' = e
  · subst h
    simp [State.posted, State.entry?]
  · have hval : (e : Nat) ≠ e' := fun k => h (Fin.ext k.symm)
    simp [State.posted, State.entry?, h, hval]

/-- R166: the configuration sets the linger time, and no buffer changes. -/
theorem State.works_configure (s : State) (b : SetupBlock) : s.Works (s.configure b) where
  bus := id
  flags _ := id
  pool := State.PoolTame.poolOk ⟨fun _ y hy => ⟨y, hy, .refl⟩, fun r hr => ⟨r, hr, rfl, rfl⟩, id, id⟩
  zones _ _ := id

theorem State.works_refuseSetup (s : State) : s.Works s.refuseSetup := by
  refine State.Works.setFault ?_ .badSetup
  exact .of_eq rfl rfl rfl rfl rfl rfl

/-- The ends of bursts and of transfers (R157 to R160). -/
theorem exec_bus_after {c : Instr} {s t : State} (h : exec c s = .next t)
    (hc : match c with
      | .masterBurstComplete | .masterBurstRetry _ | .setupBlockReadEnd _ | .orderFetchHostFault _ | .completionWriteEnd _
      | .writeDataReadEnd _ | .readDataStoreEnd _ | .reportStoreEnd _ => True
      | _ => False) : s.After c t := by
  have hset {x : Transfer} (hbusy : s.host.engine = some x) (y : Option Transfer) : s.newEvent.Works (s.newEvent.setEngine y) :=
    State.works_setEngine (s := s.newEvent) hbusy y
  cases c with
  | masterBurstComplete =>
    rw [exec, execMasterBurstComplete] at h
    exact .of_bus h fun x hbusy _ => .of_busy_kept hbusy (hset hbusy _) rfl
  | masterBurstRetry n =>
    rw [exec, execMasterBurstRetry] at h
    refine .of_bus h fun x hbusy _ => ?_
    split
    · exact State.effect_routeFault hbusy _ x
    · exact .of_busy_kept hbusy (hset hbusy _) rfl
  | setupBlockReadEnd result =>
    rw [exec, execSetupBlockReadEnd] at h
    refine .of_bus h fun x hbusy _ => ?_
    split
    · split
      · exact .of_busy hbusy rfl (s.newEvent_works ((hset hbusy none).trans (State.works_configure _ _))) fun e _ y hy => ⟨y, hy, rfl⟩
      · exact .of_busy hbusy rfl (s.newEvent_works ((hset hbusy none).trans (State.works_refuseSetup _))) fun e _ y hy => ⟨y, hy, rfl⟩
    · exact State.effect_routeFault hbusy _ x
  | orderFetchHostFault f =>
    rw [exec, execOrderFetchHostFault] at h
    exact .of_bus h fun x hbusy _ => State.effect_routeFault hbusy _ x
  | completionWriteEnd result =>
    rw [exec, execCompletionWriteEnd] at h
    refine .of_bus h fun x hbusy _ => ?_
    split
    · next e hjob _ =>
      refine .of_busy hbusy rfl (s.newEvent_works ((hset hbusy none).trans (.of_eq rfl rfl rfl rfl rfl rfl))) fun e' hfree y hy => ?_
      have hne : e' ≠ e := by
        rintro rfl
        exact hfree x hbusy hjob rfl
      exact ⟨y, ((State.entry_posted _ e e').trans (if_neg hne)).trans hy, rfl⟩
    · exact State.effect_routeFault hbusy _ x
  | writeDataReadEnd result =>
    rw [exec, execWriteDataReadEnd] at h
    refine .of_bus h fun x hbusy _ => ?_
    split
    · split
      · exact .of_busy_kept hbusy (hset hbusy _) rfl
      · unfold State.takeData
        split
        · exact .of_busy_kept hbusy (hset hbusy _) rfl
        · split
          · exact .of_busy_kept hbusy (hset hbusy _) rfl
          · exact .of_busy_kept hbusy ((hset hbusy _).mapTurn _) rfl
    · exact State.effect_routeFault hbusy _ x
  | readDataStoreEnd result =>
    rw [exec, execReadDataStoreEnd] at h
    refine .of_bus h fun x hbusy _ => ?_
    split
    · dsimp only
      split
      · exact .of_busy_kept hbusy (hset hbusy _) rfl
      · split
        · exact .of_busy_kept hbusy ((hset hbusy _).delivered _ _) (State.kept_delivered _ _ _)
        · exact .of_busy_kept hbusy (hset hbusy _) rfl
    · exact State.effect_routeFault hbusy _ x
  | reportStoreEnd result =>
    rw [exec, execReportStoreEnd] at h
    refine .of_bus h fun x hbusy _ => ?_
    split
    · exact .of_busy_kept hbusy ((hset hbusy _).goDone _ _) (State.kept_goDone _ _ _)
    · exact State.effect_routeFault hbusy _ x
  | _ => exact hc.elim

/-! ### Register writes and lines -/

/-- A change of the CONTROL bits, the part state but for HALTED, the setup request, the rings' indices or a pending reset. -/
theorem State.effect_of_control {s u : State} (c : Instr) (hpending : u.pending = s.pending) (hengine : u.host.engine = s.host.engine)
    (hfault : u.host.fault = s.host.fault) (hpart : s.host.part = .halted → u.host.part = .halted) (horders : u.orders = s.orders)
    (hpool : u.pool = s.pool) (hdevices : u.devices = s.devices) (hzones : u.zones = s.zones) (hloader : u.loader = s.loader) :
    s.Effect c u :=
  .of_frame hpending (.of_eq hengine hfault hzones (by rw [hloader]) hpool hdevices) (fun h _ => hpart h)
    fun e => by rw [State.entry?, horders]; rfl

theorem State.effect_setRun (s : State) (c : Instr) (ie fe : Bool) : s.Effect c (s.takeEnables ie fe).setRun := by
  have henables : s.Effect c (s.takeEnables ie fe) := State.effect_of_control c rfl rfl rfl id rfl rfl rfl rfl rfl
  unfold State.setRun
  split
  · exact henables
  · dsimp only
    split
    · next hpart =>
      split
      · exact State.effect_of_control c rfl rfl rfl (fun h => nomatch hpart.symm.trans h) rfl rfl rfl rfl rfl
      · exact State.effect_of_control c rfl rfl rfl (fun h => nomatch hpart.symm.trans h) rfl rfl rfl rfl rfl
    · next hpart => exact State.effect_of_control c rfl rfl rfl (fun h => nomatch hpart.symm.trans h) rfl rfl rfl rfl rfl
    all_goals exact State.effect_of_control c rfl rfl rfl id rfl rfl rfl rfl rfl

theorem State.effect_clearRun (s : State) (c : Instr) (ie fe : Bool) : s.Effect c (s.newEvent.takeEnables ie fe).clearRun := by
  unfold State.clearRun
  split
  · dsimp only
    split
    · next hpart =>
      refine State.Effect.trans (u := { s.newEvent with
        host := { s.host with intEnable := ie, faultIntEnable := fe, run := false, part := .draining } }) ?_
        (State.Works.refl.closeAll _) (State.kept_closeAll _ _) ?_
      · exact State.effect_of_control c rfl rfl rfl (fun h => nomatch hpart.symm.trans h) rfl rfl rfl rfl rfl
      · exact nofun
    all_goals exact State.effect_of_control c rfl rfl rfl id rfl rfl rfl rfl rfl
  · exact State.effect_of_control c rfl rfl rfl id rfl rfl rfl rfl rfl

theorem State.effect_writeTail (s : State) (c : Instr) (r : RingId) (v : Word) : s.Effect c (s.writeTail r v) := by
  unfold State.writeTail
  split
  · exact .refl s c
  · split
    · exact .of_frame rfl (State.Works.refl.setFault _) (fun h _ => h) fun _ => rfl
    · split
      · cases r <;> exact State.effect_of_control c rfl rfl rfl id rfl rfl rfl rfl rfl
      · exact .of_frame rfl (State.Works.refl.setFault _) (fun h _ => h) fun _ => rfl

theorem State.effect_writeHead (s : State) (c : Instr) (v : Word) : s.Effect c (s.writeHead v) := by
  unfold State.writeHead
  split
  · exact .refl s c
  · split
    · exact .of_frame rfl (State.Works.refl.setFault _) (fun h _ => h) fun _ => rfl
    · dsimp only
      split
      · exact State.effect_of_control c rfl rfl rfl id rfl rfl rfl rfl rfl
      · exact .of_frame rfl (State.Works.refl.setFault _) (fun h _ => h) fun _ => rfl

/-- R176: a FAULT write touches the flags and the line alone. -/
theorem State.effect_faultWrite (s : State) (v : Word) :
    s.Effect (.faultWrite v) { s with host := { s.host with fault := s.host.fault &&& ~~~(v.truncate 9) } }.updateIntreq where
  pending := rfl
  pool := State.PoolTame.poolOk (.of_eq rfl rfl)
  halted _ hpart hidle := ⟨hpart, hidle⟩
  flags hc := absurd rfl (hc v)
  zones _ _ _ _ _ := id
  identities _ _ x hx := ⟨x, hx, rfl⟩

/-- R134: a change of the line GRD touches the level that the part has taken alone. -/
theorem State.effect_grdChange (s : State) (a : Bool) :
    s.Effect (.grdChange a) { s with
      pins := { s.pins with grd := a }
      zones := { s.zones with guard := if s.pins.hrst then s.zones.guard else a } } where
  pending := rfl
  pool := State.PoolTame.poolOk (.of_eq rfl rfl)
  halted _ hpart hidle := ⟨hpart, hidle⟩
  flags _ _ := id
  zones _ _ hc := absurd rfl (hc a)
  identities _ _ x hx := ⟨x, hx, rfl⟩

/-- R147: LOADING begins with a device that wakes. -/
theorem State.effect_hrstRelease (s : State) (bw : Bool) :
    s.Effect (.hrstRelease bw) { s.newEvent with pins := { s.pins with hrst := false, bw } }.beginLoading where
  pending := rfl
  pool hs := (State.Works.refl.wake 0).pool (State.PoolTame.poolOk (s := s) (.of_eq rfl rfl) hs)
  halted hc := absurd rfl (hc bw)
  flags _ _ := id
  zones _ hc := absurd rfl (hc bw)
  identities _ _ x hx := ⟨x, hx, rfl⟩

/-- The register writes and the lines. -/
theorem exec_control_after {c : Instr} {s t : State} (h : exec c s = .next t)
    (hc : match c with
      | .linkReset | .hrstRelease _ | .grdChange _ | .runSet _ _ | .runClear _ _ | .intEnable _ | .faultIntEnable _ | .localReset _ _ _
      | .localResetAtBurstEnd _ | .setupAddrWrite _ | .ntailWrite _ | .utailWrite _ | .cheadWrite _ | .faultWrite _
      | .registerWriteIgnored _ _ _ => True
      | _ => False) : s.After c t := by
  cases c with
  | linkReset => cases h; exact .linkReset rfl rfl
  | hrstRelease bw =>
    rw [exec, execHrstRelease] at h
    split at h
    · cases h
      exact .effect (s.effect_hrstRelease bw).conclude
    · cases h
      exact .effect (.refl s _)
  | grdChange a =>
    cases h
    exact .effect (s.effect_grdChange a)
  | runSet ie fe =>
    rw [exec, execRunSet] at h
    refine .effect (.of_access h (State.Effect.hostSide ?_))
    split
    · exact State.effect_of_control _ rfl rfl rfl id rfl rfl rfl rfl rfl
    · exact s.effect_setRun _ ie fe
  | runClear ie fe =>
    rw [exec, execRunClear] at h
    refine .effect (.of_react h fun u hu => ?_)
    cases hu
    split
    · exact State.effect_of_control _ rfl rfl rfl id rfl rfl rfl rfl rfl
    · exact s.effect_clearRun _ ie fe
  | intEnable v =>
    rw [exec, execIntEnable] at h
    exact .effect (.of_access h (State.effect_of_control _ rfl rfl rfl id rfl rfl rfl rfl rfl))
  | faultIntEnable v =>
    rw [exec, execFaultIntEnable] at h
    exact .effect (.of_access h (State.effect_of_control _ rfl rfl rfl id rfl rfl rfl rfl rfl))
  | localReset ie fe bw =>
    rw [exec, execLocalReset] at h
    rcases s.react_cases _ with ⟨-, heq⟩ | ⟨-, -, heq⟩ | ⟨-, u, hu, heq⟩
    · cases heq.symm.trans h
      exact .effect (.refl s _)
    · cases heq.symm.trans h
      exact .effect (.refl s _)
    · cases heq.symm.trans h
      dsimp only at hu
      split at hu
      · cases hu
        refine .effect (State.Effect.conclude ?_)
        exact State.effect_of_control _ rfl rfl rfl id rfl rfl rfl rfl rfl
      · split at hu
        · cases hu
          exact .localReset ((s.newEvent.takeEnables ie fe).setBW bw) (.inl rfl) rfl rfl
        · cases hu
          refine .effect (State.Effect.conclude ?_)
          exact State.effect_of_control _ rfl rfl rfl id rfl rfl rfl rfl rfl
  | localResetAtBurstEnd bw =>
    rw [exec, execLocalResetAtBurstEnd] at h
    rcases s.react_cases _ with ⟨-, heq⟩ | ⟨-, -, heq⟩ | ⟨-, u, hu, heq⟩
    · cases heq.symm.trans h
      exact .effect (.refl s _)
    · cases heq.symm.trans h
      exact .effect (.refl s _)
    · cases heq.symm.trans h
      split at hu
      · next hpending =>
        cases hu
        exact .localReset (s.newEvent.setBW bw) (.inr hpending.1) rfl rfl
      · cases hu
  | setupAddrWrite v =>
    rw [exec, execSetupAddrWrite] at h
    refine .effect (.of_access h ?_)
    split
    · exact State.effect_of_control _ rfl rfl rfl id rfl rfl rfl rfl rfl
    · exact .refl s _
  | ntailWrite v =>
    rw [exec, execNtailWrite] at h
    exact .effect (.of_access h (s.effect_writeTail _ .normal v).hostSide)
  | utailWrite v =>
    rw [exec, execUtailWrite] at h
    exact .effect (.of_access h (s.effect_writeTail _ .urgent v).hostSide)
  | cheadWrite v =>
    rw [exec, execCheadWrite] at h
    exact .effect (.of_access h (s.effect_writeHead _ v).hostSide)
  | faultWrite v =>
    rw [exec, execFaultWrite] at h
    exact .effect (.of_access h (s.effect_faultWrite v))
  | registerWriteIgnored r v be => cases h; exact .effect (.refl s _)
  | _ => exact hc.elim

/-! ### Every command -/

/-- What a command makes of a state. -/
theorem exec_after {c : Instr} {s t : State} (h : exec c s = .next t) : s.After c t := by
  cases c with
  | linkReset | hrstRelease _ | grdChange _ | runSet _ _ | runClear _ _ | intEnable _ | faultIntEnable _ | localReset _ _ _
  | localResetAtBurstEnd _ | setupAddrWrite _ | ntailWrite _ | utailWrite _ | cheadWrite _ | faultWrite _
  | registerWriteIgnored _ _ _ => exact exec_control_after h trivial
  | read _ | write _ | fill _ | flush _ | setZone _ | setGeometry _ | storeProfile _ | cancel _ | revive _ | report _
  | unknownKind _ _ => exact exec_fetched_after h trivial
  | masterBurstComplete | masterBurstRetry _ | setupBlockReadEnd _ | orderFetchHostFault _ | completionWriteEnd _
  | writeDataReadEnd _ | readDataStoreEnd _ | reportStoreEnd _ => exact exec_bus_after h trivial
  | lingerExpiry _ | pageLoadEnd _ | confirmingAskEnd _ _ | pollEnd _ _ | wakeAskEnd _ _ | reviveAskEnd _ _ | fillReadEnd _ _
  | verifyReadEnd _ _ | hostReadFrameEnd _ _ | copyAReadEnd _ | copyBReadEnd _ | pollTimerExpiry _ | wakeLimitExpiry _
  | cycleTimerExpiry _ => exact .effect (exec_frame_effect h trivial)
  | _ => exact .effect (exec_start_effect h (by simp))

theorem State.reset_buffer (b : BufferId) : State.reset.buffer? b = none := by
  simp [State.buffer?, State.reset, Pool.reset]

theorem State.reset_device (d : DevicePos) : (State.reset.device d).noAnswer = 0 := by
  simp [State.device, State.reset, DeviceRecord.reset]

/-- The pool right after a reset holds nothing. -/
theorem State.reset_poolOk : State.reset.PoolOk where
  onePerPage b _ _ _ hy := nomatch (State.reset_buffer b).symm.trans hy
  requestOpen := nofun
  contributors b _ hy := nomatch (State.reset_buffer b).symm.trans hy
  failures := Nat.zero_le 8
  noAnswer d := by rw [State.reset_device]; exact Nat.zero_le 2

theorem State.localReset_poolOk (s : State) : s.localReset.PoolOk :=
  (State.Works.refl.wake 0).pool (State.PoolTame.poolOk (s := State.reset) (.of_eq rfl rfl) State.reset_poolOk)

theorem State.After.poolOk {s t : State} {c : Instr} (h : s.After c t) (hs : s.PoolOk) : t.PoolOk := by
  cases h with
  | linkReset _ ht =>
    subst ht
    exact State.PoolTame.poolOk (s := State.reset) (.of_eq rfl rfl) State.reset_poolOk
  | localReset u _ _ ht =>
    subst ht
    exact (State.Effect.refl u.localReset .drainEnd).conclude.pool u.localReset_poolOk
  | effect h => exact h.pool hs

theorem State.After.pending {s t : State} {c : Instr} (h : s.After c t) : t.pending = s.pending := by
  cases h with
  | linkReset _ ht => subst ht; rfl
  | localReset u _ hpending ht =>
    subst ht
    exact ((State.Effect.refl u.localReset .drainEnd).conclude).pending.trans hpending
  | effect h => exact h.pending

theorem State.After.no_reset {s t : State} {c : Instr} (h : s.After c t) (hc : c.isReset = false)
    (hpending : s.host.resetPending = false) : s.Effect c t := by
  cases h with
  | linkReset k _ => simp [hc] at k
  | localReset u k _ _ => simp [hc, hpending] at k
  | effect h => exact h

/-- No command stops the block. -/
theorem exec_answers (c : Instr) (s : State) : ∃ t, exec c s = .next t := by
  have haccess (f : State → State) : ∃ t, s.access f = .next t := by
    cases hrst : s.pins.hrst with
    | true => exact ⟨s, s.access_held f hrst⟩
    | false => exact ⟨f s, s.access_run f hrst⟩
  have hreact (f : State → Option State) : ∃ t, s.react f = .next t := by
    rcases s.react_cases f with ⟨-, heq⟩ | ⟨-, -, heq⟩ | ⟨-, u, -, heq⟩
    · exact ⟨_, heq⟩
    · exact ⟨_, heq⟩
    · exact ⟨_, heq⟩
  have haccept (k : Kind) (r : OrderRecord) (handOn : EntryId → State → State) : ∃ t, s.accept k r handOn = .next t := hreact _
  cases c with dsimp only [exec]
  | linkReset | grdChange _ | registerWriteIgnored _ _ _ => exact ⟨_, rfl⟩
  | hrstRelease bw =>
    unfold execHrstRelease
    split
    · exact ⟨_, rfl⟩
    · exact ⟨_, rfl⟩
  | runSet _ _ | intEnable _ | faultIntEnable _ | setupAddrWrite _ | ntailWrite _ | utailWrite _ | cheadWrite _ | faultWrite _ =>
    exact haccess _
  | read _ | write _ | fill _ | flush _ | setZone _ | setGeometry _ | storeProfile _ | cancel _ | revive _ | report _
  | unknownKind _ _ => exact haccept _ _ _
  | _ => exact hreact _

/-- Settles O2: no meaning stops, and none changes the commands that wait. -/
theorem everyCommandAnswersNext : Obligations.EveryCommandAnswersNext := by
  intro c s
  obtain ⟨t, ht⟩ := exec_answers c s
  exact ⟨t, ht, (exec_after ht).pending⟩

/-- Settles O54: the step lemma over the commands, the resets included. -/
theorem poolStaysTogether : Obligations.PoolStaysTogether := by
  intro s t hs h
  unfold step at h
  split at h
  · cases h
    exact hs
  · next c rest _ => exact (exec_after h).poolOk (State.PoolTame.poolOk (s := s) (.of_eq rfl rfl) hs)

/-- Settles O55: outside the resets only the completion of an entry's own record ends its identity. -/
theorem entryIdentityNeverChanges : Obligations.EntryIdentityNeverChanges :=
  fun _ _ _ e x hx h hc hpending hown => ((exec_after h).no_reset hc hpending).identities e hown x hx

/-- Settles O56: outside the resets, the boot wake and the choice of a profile no command replaces a GUARDED entry. -/
theorem guardedZoneStays : Obligations.GuardedZoneStays := by
  intro s t c i z hguard hentry hmode h hc hpending hrelease hphase hcopy
  have heffect := (exec_after h).no_reset hc hpending
  by_cases hgrd : ∃ a, c = .grdChange a
  · obtain ⟨a, rfl⟩ := hgrd
    cases h
    exact hentry
  · exact (heffect.zones hcopy hrelease (fun a k => hgrd ⟨a, k⟩) i z ⟨hguard, hentry, hmode, hphase⟩).2.1

/-- Settles O57: HALTED and the flags, outside the resets, the release of HRST and a FAULT write. -/
theorem haltedAndFlagsStay : Obligations.HaltedAndFlagsStay := by
  intro s t c h hc hpending hrelease
  have heffect := (exec_after h).no_reset hc hpending
  exact ⟨heffect.halted hrelease, heffect.flags⟩

/-! ### A waiting setup block read -/

/-- A state that meets `State.HostOk`, though a setup block read stands among the class-2 requests: nothing in the invariant says what
the requests ask for. -/
def strayRequest : State :=
  { State.reset with
    pins := { State.reset.pins with hrst := false }
    host := { HostPort.reset with part := .stopped, requests := [⟨.setupRead, 0, []⟩] }
    pending := [.ntailWrite 0] }

theorem strayRequest_hostOk : strayRequest.HostOk where
  held := nofun
  indices := ⟨rfl, rfl, rfl, rfl, rfl, rfl⟩
  setupAddr := rfl
  urgentRun := Nat.zero_le 4
  halted := nofun
  setupOnBus := nofun
  setupWaits := nofun
  unconfigured := nofun

/-- Refutes O53: the write of a tail ends in the grant of the stray setup block read to a STOPPED part. -/
theorem not_hostSideStaysTogether : ¬ Obligations.HostSideStaysTogether := by
  intro h
  have hstep := h strayRequest _ strayRequest_hostOk rfl
  exact absurd (hstep.setupOnBus ⟨_, rfl, rfl⟩) (by decide)

end Sys2Proof.Machine
end

section
/-! PROOFS. The register window and the lines (R134, R161 to R169, R174, R176): reads of the registers, register writes one by one, the link
reset; and the obligations StepTakesFrontCommand, RegisterReads, GrdChangeTakesLevel, LinkResetHoldsEveryBlock, RunSetByPartState,
RunClearDrains, EnablesMoveIntreq, SetupAddrAndIgnoredWrites, TailWrites, FaultWriteClearsFlags and ResetStateIsInOrder. -/

namespace Sys2Proof.Machine

/-- Settles O1. -/
theorem stepTakesFrontCommand : Obligations.StepTakesFrontCommand := by
  refine ⟨fun s c rest h => ?_, fun s h => ?_⟩
  · rw [step, h]
    rfl
  · rw [step, h]

/-! ### Reads -/

theorem vector_toList_eq_map {α : Type} {n : Nat} (v : Vector α n) : v.toList = (List.finRange n).map fun i => v[i] := by
  apply List.ext_getElem
  · simp
  · intro i h1 h2
    simp

/-- R71: the occupied entries are counted over the indices. -/
theorem State.occupancy_eq (s : State) : s.occupancy = ((List.finRange 32).filter fun e => (s.entry? e).isSome).length := by
  rw [State.occupancy, vector_toList_eq_map, List.filter_map, List.length_map]
  rfl

/-- R22: the FREE records are counted over the indices. -/
theorem State.freeBuffers_eq (s : State) : s.freeBuffers = ((List.finRange 16).filter fun b => (s.buffer? b).isNone).length := by
  rw [State.freeBuffers, vector_toList_eq_map, List.filter_map, List.length_map]
  rfl

theorem State.occupancy_le (s : State) : s.occupancy ≤ 32 := by
  rw [s.occupancy_eq]
  exact (List.length_filter_le _ _).trans_eq (List.length_finRange)

theorem State.freeBuffers_le (s : State) : s.freeBuffers ≤ 16 := by
  rw [s.freeBuffers_eq]
  exact (List.length_filter_le _ _).trans_eq (List.length_finRange)

/-- R186: the fields of a word put together from numbers that fit them. -/
theorem stateWord_fields (p g c o f : Nat) (hp : p < 8) (hg : g < 2) (hc : c < 4) (ho : o < 64) (hf : f < 32) (v : Word)
    (hv : v = BitVec.ofNat 32 (p + 16 * g + 256 * c + 65536 * o + 16777216 * f)) :
    (v.extractLsb' 0 3).toNat = p ∧ v.getLsbD 4 = decide (g = 1) ∧ (v.extractLsb' 8 2).toNat = c ∧ (v.extractLsb' 16 6).toNat = o
      ∧ (v.extractLsb' 24 5).toNat = f ∧ v.getLsbD 3 = false ∧ v.extractLsb' 5 3 = 0 ∧ v.extractLsb' 10 6 = 0
      ∧ v.extractLsb' 22 2 = 0 ∧ v.extractLsb' 29 3 = 0 := by
  have hn : v.toNat = p + 16 * g + 256 * c + 65536 * o + 16777216 * f := by
    rw [hv, BitVec.toNat_ofNat]
    omega
  have hzero (a n : Nat) (h : v.toNat / 2 ^ a % 2 ^ n = 0) : v.extractLsb' a n = 0 :=
    BitVec.eq_of_toNat_eq (by rw [BitVec.extractLsb'_toNat, Nat.shiftRight_eq_div_pow, h]; simp)
  simp only [BitVec.extractLsb'_toNat, Nat.shiftRight_eq_div_pow, BitVec.getLsbD, Nat.testBit_eq_decide_div_mod_eq]
  refine ⟨?_, ?_, ?_, ?_, ?_, ?_, hzero _ _ ?_, hzero _ _ ?_, hzero _ _ ?_, hzero _ _ ?_⟩
  all_goals rw [hn]
  · omega
  · congr 1
    rw [eq_iff_iff]
    omega
  · omega
  · omega
  · omega
  · rw [decide_eq_false_iff_not]
    omega
  · omega
  · omega
  · omega
  · omega

theorem State.readRegister_run (s : State) (r : Register) (h : s.pins.hrst = false) : s.readRegister r = some
    (match r with
    | .ident => 0xB7412001#32
    | .control => BitVec.ofNat 32 (s.host.run.toNat + 2 * s.host.intEnable.toNat + 4 * s.host.faultIntEnable.toNat)
    | .state => s.stateRegister
    | .setupAddr => s.host.setupAddr
    | .ntail => BitVec.ofNat 32 s.fetch.normalTail
    | .utail => BitVec.ofNat 32 s.fetch.urgentTail
    | .chead => BitVec.ofNat 32 s.poster.head
    | .fault => s.host.fault.zeroExtend 32) := by
  simp [State.readRegister, h] <;> rfl

/-- R186: CONTROL holds its three bits and no other. -/
theorem controlWord_fields (a b c : Bool) :
    let v := BitVec.ofNat 32 (a.toNat + 2 * b.toNat + 4 * c.toNat)
    v.getLsbD 0 = a ∧ v.getLsbD 1 = b ∧ v.getLsbD 2 = c ∧ v.extractLsb' 3 29 = 0 := by
  cases a <;> cases b <;> cases c <;> decide

/-- R186: each flag of FAULT at its bit, and no other bit. -/
theorem faultWord_fields (s : State) (f : FaultFlag) : (s.host.fault.zeroExtend 32).getLsbD f.bit = s.flag f := by
  have hbit : f.bit < 32 := by cases f <;> decide
  simp [State.flag, hbit]

theorem faultWord_zero (s : State) : (s.host.fault.zeroExtend 32).extractLsb' 9 23 = 0 := by
  apply BitVec.eq_of_toNat_eq
  have hlt := s.host.fault.isLt
  rw [BitVec.extractLsb'_toNat, Nat.shiftRight_eq_div_pow, BitVec.zeroExtend_eq_setWidth, BitVec.toNat_setWidth]
  simp only [BitVec.ofNat_eq_ofNat, BitVec.toNat_ofNat]
  omega

theorem PartState.code_eq (p : PartState) : p.code = match p with
    | .loading => 0 | .stopped => 1 | .settingUp => 2 | .running => 3 | .draining => 4 | .halted => 5 := rfl

theorem copyCode_eq (k : Option CopyId) : copyCode k = match k with | none => 0 | some .a => 1 | some .b => 2 := by
  unfold copyCode
  split <;> rfl

/-- Settles O4: the window is closed under HRST; then the eight words, each by its fields. -/
theorem registerReads : Obligations.RegisterReads := by
  refine ⟨fun s r h => by simp [State.readRegister, h], fun s h => ?_⟩
  have hpart : s.host.part.code < 8 := by cases s.host.part <;> decide
  have hcopy : copyCode s.loader.inUse < 4 := by unfold copyCode; split <;> decide
  have hguard : s.zones.guard.toNat < 2 := Bool.toNat_lt _
  obtain ⟨hstate, hgrd, huse, hocc, hfree, hz3, hz5, hz10, hz22, hz29⟩ := stateWord_fields _ _ _ _ _ hpart hguard hcopy
    (Nat.lt_succ_of_le (s.occupancy_le.trans (by omega))) (Nat.lt_succ_of_le (s.freeBuffers_le.trans (by omega))) s.stateRegister rfl
  refine ⟨s.readRegister_run _ h, ⟨_, s.readRegister_run _ h, controlWord_fields _ _ _⟩, ⟨_, s.readRegister_run _ h, ?_⟩,
    s.readRegister_run _ h, s.readRegister_run _ h, s.readRegister_run _ h, s.readRegister_run _ h, ⟨_, s.readRegister_run _ h, ?_⟩⟩
  · exact ⟨hstate.trans (PartState.code_eq _), hgrd.trans (by cases s.zones.guard <;> rfl), huse.trans (copyCode_eq _),
      hocc.trans s.occupancy_eq, hfree.trans s.freeBuffers_eq, hz3, hz5, hz10, hz22, hz29⟩
  · exact ⟨faultWord_zero s, faultWord_fields s .haltSetup, faultWord_fields s .haltFetch, faultWord_fields s .haltPost,
      faultWord_fields s .badIndex, faultWord_fields s .badSetup, faultWord_fields s .profileNone, faultWord_fields s .profileOneBad,
      faultWord_fields s .deviceLost, faultWord_fields s .faillistDrop⟩

/-! ### Register writes -/

section
variable {s : State} (h : s.pins.hrst = false)
include h

theorem exec_runSet (ie fe : Bool) : exec (.runSet ie fe) s = .next
    (if s.host.resetPending then s.takeEnables ie fe else (s.takeEnables ie fe).setRun).hostSide := by
  rw [exec, execRunSet, State.access_run _ _ h]

theorem exec_intEnable (v : Bool) : exec (.intEnable v) s = .next (s.takeEnables v s.host.faultIntEnable).updateIntreq := by
  rw [exec, execIntEnable, State.access_run _ _ h]

theorem exec_faultIntEnable (v : Bool) : exec (.faultIntEnable v) s = .next (s.takeEnables s.host.intEnable v).updateIntreq := by
  rw [exec, execFaultIntEnable, State.access_run _ _ h]

theorem exec_setupAddrWrite (v : Word) : exec (.setupAddrWrite v) s = .next
    (if s.host.part = .stopped ∧ s.configured = false ∧ s.host.resetPending = false
      then { s with host := { s.host with setupAddr := v &&& 0xFFFFFFC0#32 } } else s) := by
  rw [exec, execSetupAddrWrite, State.access_run _ _ h]

theorem exec_ntailWrite (v : Word) : exec (.ntailWrite v) s = .next (s.writeTail .normal v).hostSide := by
  rw [exec, execNtailWrite, State.access_run _ _ h]

theorem exec_utailWrite (v : Word) : exec (.utailWrite v) s = .next (s.writeTail .urgent v).hostSide := by
  rw [exec, execUtailWrite, State.access_run _ _ h]

theorem exec_faultWrite (v : Word) : exec (.faultWrite v) s = .next
    { s with host := { s.host with fault := s.host.fault &&& ~~~(v.truncate 9) } }.updateIntreq := by
  rw [exec, execFaultWrite, State.access_run _ _ h]

theorem exec_runClear (ie fe : Bool) : exec (.runClear ie fe) s = .next
    (if s.host.resetPending then s.newEvent.takeEnables ie fe else (s.newEvent.takeEnables ie fe).clearRun).conclude := by
  rw [exec, execRunClear]
  exact State.react_some _ _ _ h rfl

end

/-- Settles O7: the level is taken, and nothing else. -/
theorem grdChangeTakesLevel : Obligations.GrdChangeTakesLevel := fun _ _ => ⟨_, rfl, rfl, rfl, rfl⟩

/-- Settles O10: while a reset is pending, with RUN set already, then by the part state. -/
theorem runSetByPartState : Obligations.RunSetByPartState := by
  intro s ie fe hrst
  refine ⟨_, exec_runSet hrst ie fe, ?_⟩
  cases hpending : s.host.resetPending with
  | true => simp [State.takeEnables]
  | false =>
    cases hrun : s.host.run with
    | true => simp [State.setRun, State.takeEnables, hrun]
    | false =>
      cases hpart : s.host.part <;> cases hconfig : s.fetch.config <;>
        simp [State.setRun, State.takeEnables, State.configured, State.enterSettingUp, hrun, hpart, hconfig]

/-- Settles O12. -/
theorem enablesMoveIntreq : Obligations.EnablesMoveIntreq := fun _ v hrst =>
  ⟨⟨_, exec_intEnable hrst v, rfl, State.updateIntreq_follows _⟩, ⟨_, exec_faultIntEnable hrst v, rfl, State.updateIntreq_follows _⟩⟩

/-- R162: the six low bits of an address dropped. -/
theorem word_and_mask (v : Word) : (v &&& 0xFFFFFFC0#32).toNat = v.toNat - v.toNat % 64 := by
  have hmask : v &&& 0xFFFFFFC0#32 = (v >>> 6) <<< 6 := by
    apply BitVec.eq_of_getLsbD_eq
    intro i hi
    simp only [BitVec.getLsbD_and, BitVec.getLsbD_shiftLeft, BitVec.getLsbD_ushiftRight]
    have hbit : ∀ j < 32, (0xFFFFFFC0#32).getLsbD j = !decide (j < 6) := by decide
    rw [hbit i hi]
    by_cases h6 : i < 6
    · simp [h6]
    · simp [h6, hi, show 6 + (i - 6) = i by omega]
  have hlt := v.isLt
  rw [hmask, BitVec.toNat_shiftLeft, BitVec.toNat_ushiftRight, Nat.shiftRight_eq_div_pow, Nat.shiftLeft_eq]
  omega

/-- Settles O13. -/
theorem setupAddrAndIgnoredWrites : Obligations.SetupAddrAndIgnoredWrites := by
  refine ⟨fun s v hrst => ⟨_, exec_setupAddrWrite hrst v, ?_⟩, fun _ _ _ _ => rfl⟩
  by_cases htaken : s.host.part = .stopped ∧ s.fetch.config = none ∧ s.host.resetPending = false
  · have htaken' : s.host.part = .stopped ∧ s.configured = false ∧ s.host.resetPending = false := by
      simpa [State.configured] using htaken
    rw [if_pos htaken, if_pos htaken']
    exact ⟨rfl, word_and_mask v⟩
  · have htaken' : ¬ (s.host.part = .stopped ∧ s.configured = false ∧ s.host.resetPending = false) := by
      simpa [State.configured] using htaken
    rw [if_neg htaken, if_neg htaken']

/-- R169: the cases of a tail write. -/
theorem State.writeTail_eq (s : State) (r : RingId) (v : Word) : s.writeTail r v =
    if s.host.resetPending = true then s
    else match s.fetch.config with
      | none => s.setFault .badIndex
      | some c =>
        if v.toNat < (match r with | .normal => c.normal.size | .urgent => c.urgent.size) then s.setTail r v.toNat
        else s.setFault .badIndex := by
  unfold State.writeTail RingFetch.size?
  cases s.fetch.config <;> rfl

/-- Settles O14: both rings by the cases of a tail write. -/
theorem tailWrites : Obligations.TailWrites := fun s v hrst =>
  ⟨⟨_, exec_ntailWrite hrst v, (s.writeTail_eq .normal v).trans rfl⟩, ⟨_, exec_utailWrite hrst v, (s.writeTail_eq .urgent v).trans rfl⟩⟩

/-- Settles O16: the mask of the write, bit by bit. -/
theorem faultWriteClearsFlags : Obligations.FaultWriteClearsFlags := by
  intro s v hrst
  refine ⟨_, exec_faultWrite hrst v, rfl, fun f => ?_, State.updateIntreq_follows _⟩
  have hbit : f.bit < 9 := by cases f <;> decide
  simp [State.flag, hbit]

/-! ### RUN_CLEAR -/

theorem State.buffer_of_pool {s s' : State} (h : s'.pool = s.pool) (b : BufferId) : s'.buffer? b = s.buffer? b :=
  congrArg (fun p : Pool => p.buffers[b]) h

/-- The closings concern the pool and the channels alone. -/
theorem State.ClosesGathering.of_same {s s' u : State} {p : Buffer → Bool} (h : s.ClosesGathering u p) (hpool : s'.pool = s.pool)
    (hchannels : s'.channels = s.channels) : s'.ClosesGathering u p where
  buffers b := (h.buffers b).trans (by rw [State.buffer_of_pool hpool])
  queues c := by
    have hchannel : s'.channel c = s.channel c := by rw [State.channel, hchannels]; rfl
    have hbuffer (b : BufferId) := State.buffer_of_pool hpool b
    have hage (b : BufferId) : s'.bufferAge b = s.bufferAge b := by rw [State.bufferAge, hbuffer, hpool]; rfl
    simpa only [hchannel, hbuffer, hage] using h.queues c

theorem State.clearRun_running (s : State) (hrun : s.host.run = true) (hpart : s.host.part = .running) :
    s.clearRun = State.enterDraining { s with host := { s.host with run := false } } := by
  simp [State.clearRun, hrun, hpart]

/-- R167: in every other part state the bit is recorded. -/
theorem State.clearRun_other (s : State) (h : ¬ (s.host.run = true ∧ s.host.part = .running)) :
    s.clearRun = { s with host := { s.host with run := false } } := by
  cases hrun : s.host.run with
  | false =>
    have hhost : { s.host with run := false } = s.host := by rw [← hrun]
    rw [hhost, State.clearRun, hrun]
    rfl
  | true =>
    have hpart : s.host.part ≠ .running := fun k => h ⟨hrun, k⟩
    cases hp : s.host.part <;> simp_all [State.clearRun]

/-- Settles O11: while a reset is pending, from RUNNING, and in every other part state. -/
theorem runClearDrains : Obligations.RunClearDrains := by
  intro s ie fe hrst
  refine ⟨_, exec_runClear hrst ie fe, ?_⟩
  by_cases hpending : s.host.resetPending = true
  · rw [if_pos hpending, if_pos hpending]
    rfl
  · rw [if_neg hpending, if_neg hpending]
    by_cases hdrains : s.host.run = true ∧ s.host.part = .running
    · rw [if_pos hdrains, State.clearRun_running (s.newEvent.takeEnables ie fe) hdrains.1 hdrains.2]
      exact ⟨State.closeAll_frame _ _, (State.closeAll_gathering _ _).of_same rfl rfl⟩
    · rw [if_neg hdrains, State.clearRun_other (s.newEvent.takeEnables ie fe) hdrains]
      rfl

/-! ### Link reset -/

/-- R164: the state of a link reset is held. -/
theorem State.linkReset_held (s : State) : s.linkReset.HeldInReset where
  lines := ⟨rfl, rfl⟩
  host := ⟨rfl, rfl, rfl, rfl, rfl, rfl, rfl⟩
  engine := ⟨rfl, rfl, rfl⟩
  fetch := ⟨rfl, rfl, rfl, rfl, rfl, rfl⟩
  poster := ⟨rfl, rfl, rfl⟩
  orders := ⟨fun _ => Vector.getElem_replicate _, rfl, rfl⟩
  gather := ⟨rfl, rfl⟩
  reader := ⟨rfl, rfl, rfl, fun _ => Vector.getElem_replicate _⟩
  pool := ⟨fun _ => Vector.getElem_replicate _, rfl, rfl, rfl, rfl, rfl⟩
  channels c := by
    have hchannel : s.linkReset.channel c = ChannelEngine.reset := Vector.getElem_replicate _
    rw [hchannel]
    exact ⟨rfl, rfl, rfl, rfl⟩
  devices d := by
    have hdevice : s.linkReset.device d = DeviceRecord.reset := Vector.getElem_replicate _
    rw [hdevice]
    exact ⟨rfl, rfl, rfl, rfl, rfl, rfl, rfl, rfl, rfl⟩
  zones _ := Vector.getElem_replicate _
  geometry _ := Vector.getElem_replicate _
  loader := ⟨rfl, rfl, rfl, rfl, rfl, rfl⟩

/-- R164: while HRST is asserted, a command other than the two line changes and another link reset changes nothing. -/
theorem exec_held {s : State} (hrst : s.pins.hrst = true) {c : Instr} (hlink : c ≠ .linkReset) (hrelease : ∀ bw, c ≠ .hrstRelease bw)
    (hgrd : ∀ a, c ≠ .grdChange a) : exec c s = .next s := by
  have hreact (f : State → Option State) : s.react f = .next s := by simp [State.react, hrst]
  have haccess (f : State → State) : s.access f = .next s := s.access_held f hrst
  have haccept (k : Kind) (r : OrderRecord) (handOn : EntryId → State → State) : s.accept k r handOn = .next s := hreact _
  cases c with dsimp only [exec]
  | linkReset => exact absurd rfl hlink
  | hrstRelease bw => exact absurd rfl (hrelease bw)
  | grdChange a => exact absurd rfl (hgrd a)
  | registerWriteIgnored _ _ _ => rfl
  | runSet _ _ | intEnable _ | faultIntEnable _ | setupAddrWrite _ | ntailWrite _ | utailWrite _ | cheadWrite _ | faultWrite _ =>
    exact haccess _
  | read _ | write _ | fill _ | flush _ | setZone _ | setGeometry _ | storeProfile _ | cancel _ | revive _ | report _
  | unknownKind _ _ => exact haccept _ _ _
  | _ => exact hreact _

/-- R134, R164: the line GRD moves, and the part stays held. -/
theorem exec_grdChange_held {s : State} (h : s.HeldInReset) (a : Bool) :
    ∃ t : State, exec (.grdChange a) s = .next t ∧ t.HeldInReset :=
  ⟨_, rfl, ⟨h.lines, h.host, h.engine, h.fetch, h.poster, h.orders, h.gather, h.reader, h.pool, h.channels, h.devices, h.zones,
    h.geometry, h.loader⟩⟩

/-- Settles O5: the reset, then the commands that meet a part in reset. -/
theorem linkResetHoldsEveryBlock : Obligations.LinkResetHoldsEveryBlock := by
  refine ⟨fun s => ⟨_, rfl, s.linkReset_held, rfl, rfl, rfl, rfl⟩, fun c s h hrelease => ?_⟩
  by_cases hlink : c = .linkReset
  · subst hlink
    exact ⟨_, rfl, s.linkReset_held, fun _ k => absurd rfl k⟩
  · by_cases hgrd : ∃ a, c = .grdChange a
    · obtain ⟨a, rfl⟩ := hgrd
      obtain ⟨t, ht, hheld⟩ := exec_grdChange_held h a
      exact ⟨t, ht, hheld, fun k => absurd rfl (k a)⟩
    · exact ⟨s, exec_held h.lines.1 hlink hrelease fun a k => hgrd ⟨a, k⟩, h, fun _ _ => rfl⟩

/-- Settles O58: the reset state is a link reset state, and it meets the three invariants. -/
theorem resetStateIsInOrder : Obligations.ResetStateIsInOrder := by
  refine ⟨State.reset.linkReset_held, ?_, State.reset_poolOk, State.reset.linkReset_follows⟩
  exact {
    held := fun _ => ⟨rfl, rfl, rfl⟩
    indices := ⟨rfl, rfl, rfl, rfl, rfl, rfl⟩
    setupAddr := rfl
    urgentRun := Nat.zero_le 4
    halted := fun h => nomatch h
    setupOnBus := fun ⟨_, h, _⟩ => nomatch h
    setupWaits := fun h => nomatch h
    unconfigured := fun _ => rfl }

end Sys2Proof.Machine
end

section
/-! PROOFS. The beginning of LOADING (R147, R163, R164): the event of a local reset, in which the boot wake's ask is granted and nothing else
follows; the release of HRST as such an event; and the obligations HrstReleaseBeginsLoading, LocalResetAtOnceOrPending and
PendingResetAtBurstEnd. -/

namespace Sys2Proof.Machine

/-! ### The event in which LOADING begins -/

/-- R147: the boot wake's ask, as a local reset queues it. -/
def State.bootAsk (s : State) : WorkItem := ⟨0, .ask .wake, s.event⟩

/-- R41: the boot wake's ask is granted. -/
def State.bootGranted (s : State) : State := s.localReset.actOnItem 0 s.bootAsk

theorem State.localReset_grantStep (s : State) : s.localReset.grantStep? 0 = some s.bootGranted := by
  have hwaits : (s.localReset.channel 0).waiting.filter s.localReset.grantable = [s.bootAsk] := by
    rw [s.localReset_channel]
    exact List.filter_cons_of_pos rfl
  have hfree : (s.localReset.channel 0).frame = none := by rw [s.localReset_channel]; rfl
  rw [State.grantStep?, hfree, hwaits]
  rfl

/-- The grant is the first follow-on action. -/
theorem State.localReset_advance (s : State) : s.localReset.advance? = some s.bootGranted := by
  have h := s.localReset_onlyBootAsk
  simp [State.advance?, State.gatherStep_none _ h.gather, State.readStep_none _ h.reader, State.takeStep_none _ _ (h.queues _),
    s.localReset_grantStep]

/-- R24, R41: channel 0 sends the ask, channel 1 is in its reset state. -/
theorem State.bootGranted_channel (s : State) (c : ChannelId) : s.bootGranted.channel c =
    if c = 0 then ⟨[], some ⟨0, .ask .wake, AddressWidth.ofBW s.pins.bw, false⟩, [], 0⟩ else ChannelEngine.reset := by
  have hbegins : s.localReset.BeginsFrame s.bootGranted 0 s.bootAsk (.ask .wake) :=
    s.localReset.beginFrame_begins 0 s.bootAsk (.ask .wake)
  rw [hbegins.2 c, s.localReset_channel, s.localReset_channel]
  by_cases hc : c = 0
  · rw [if_pos hc, if_pos hc]
    have herase : [s.bootAsk].erase s.bootAsk = [] := List.erase_cons_head ..
    simp only [ChannelEngine.reset, if_true]
    exact congrArg (fun l => (⟨[], _, l, _⟩ : ChannelEngine)) herase
  · rw [if_neg hc, if_neg hc, if_neg hc]
    rfl

/-- No action follows the grant. -/
theorem State.bootGranted_advance (s : State) : s.bootGranted.advance? = none := by
  have h := (s.localReset_onlyBootAsk.grantStep 0 s.localReset_grantStep).1
  have hgrant (c : ChannelId) : s.bootGranted.grantStep? c = none := by
    rw [State.grantStep?, s.bootGranted_channel]
    split
    · rfl
    · next hframe =>
      split at hframe
      · cases hframe
      · next hc =>
        rw [if_neg hc]
        rfl
  simp [State.advance?, State.gatherStep_none _ h.gather, State.readStep_none _ h.reader, State.takeStep_none _ _ (h.queues _),
    hgrant, State.loadEnd?, State.drainEnd?, h.phase, h.loading]

theorem State.settleWithin_quiet {s : State} (h : s.advance? = none) (n : Nat) : s.settleWithin n = s := by
  cases n with
  | zero => rfl
  | succ n => rw [State.settleWithin, h]

/-- R159: with nothing requested nothing is granted. -/
theorem State.grantMaster_none (s : State) (hconfig : s.fetch.config = none) (hsetup : s.host.setupRequest = false)
    (hrequests : s.host.requests = []) : s.grantMaster = s := by
  simp [State.grantMaster, State.oldestRequest, hconfig, hsetup, hrequests]

/-- The whole event: the grant, and the line stays released. -/
theorem State.localReset_conclude (s : State) : s.localReset.conclude = s.bootGranted.joinStarted := by
  have hsettle : s.localReset.settle = s.bootGranted := by
    have hfirst : s.localReset.settleWithin (1048575 + 1) = s.bootGranted.settleWithin 1048575 := by
      rw [State.settleWithin, s.localReset_advance]
    exact hfirst.trans (State.settleWithin_quiet s.bootGranted_advance _)
  have hgrant : s.bootGranted.joinStarted.grantMaster = s.bootGranted.joinStarted := State.grantMaster_none _ rfl rfl rfl
  rw [State.conclude, hsettle, State.hostSide, hgrant, State.updateIntreq, State.intreqCondition_clear _ rfl rfl]
  rfl

theorem replicate_set_other {α : Type} (v w : α) (d : DevicePos) (hd : d ≠ 0) :
    ((Vector.replicate 8 v).set 0 w (by decide))[d] = v := by
  have hne : (0 : Nat) ≠ d := fun k => hd (Fin.ext k.symm)
  rw [Fin.getElem_fin, Vector.getElem_set_ne _ _ hne, Vector.getElem_replicate]

/-- R147, R163: LOADING has begun, with the levels and the kept bits of the state that was reset. -/
theorem State.localReset_loadingBegun (s : State) : s.localReset.conclude.LoadingBegun s.pins.bw s.pins.grd := by
  rw [s.localReset_conclude]
  have hdevice (d : DevicePos) (hd : d ≠ 0) : s.bootGranted.device d = DeviceRecord.reset := by
    exact replicate_set_other _ _ d hd
  exact {
    part := rfl
    run := rfl
    fault := rfl
    notPending := rfl
    engine := rfl
    requests := ⟨rfl, rfl⟩
    released := ⟨rfl, rfl⟩
    fetch := ⟨rfl, rfl, rfl, rfl, rfl, rfl⟩
    poster := ⟨rfl, rfl, rfl⟩
    orders := ⟨fun _ => Vector.getElem_replicate _, rfl, rfl⟩
    gather := ⟨rfl, rfl⟩
    reader := ⟨rfl, rfl, rfl, fun _ => Vector.getElem_replicate _⟩
    pool := ⟨fun _ => Vector.getElem_replicate _, rfl, rfl, rfl, rfl, rfl⟩
    zones := ⟨fun _ => Vector.getElem_replicate _, rfl⟩
    loader := ⟨rfl, rfl, rfl, rfl, rfl, rfl⟩
    bootGeometry := ⟨_, rfl, rfl, rfl, rfl⟩
    otherGeometry := fun d hd => replicate_set_other _ _ d hd
    bootWake := ⟨rfl, rfl, rfl⟩
    otherDevices := hdevice
    channel0 := s.bootGranted_channel 0
    channel1 := s.bootGranted_channel 1 }

/-- R164: the blocks of a part held in reset, but for what the beginning of LOADING overwrites. -/
theorem State.HeldInReset.blocks {s : State} (h : s.HeldInReset) :
    s.host = HostPort.reset ∧ s.fetch = RingFetch.reset ∧ s.poster = Poster.reset ∧ s.orders = OrderTable.reset
    ∧ s.gather = GatherEngine.reset ∧ s.reader = ReadEngine.reset ∧ s.pool = Pool.reset
    ∧ s.channels = Vector.replicate 2 ChannelEngine.reset ∧ s.devices = Vector.replicate 8 DeviceRecord.reset
    ∧ s.zones = { State.reset.zones with guard := s.zones.guard }
    ∧ s.loader = { Loader.reset with bootWidth := s.loader.bootWidth } := by
  obtain ⟨hpart, hrun, hie, hfe, haddr, hfault, hpending⟩ := h.host
  obtain ⟨hengine, hsetup, hrequests⟩ := h.engine
  obtain ⟨hconfig, hnh, hnt, huh, hut, hrun4⟩ := h.fetch
  obtain ⟨htail, hhead, hserial⟩ := h.poster
  obtain ⟨hentries, hsequence, hdone⟩ := h.orders
  obtain ⟨hqueue, hturn⟩ := h.gather
  obtain ⟨hwaiting, hactive, hready, hdeferred⟩ := h.reader
  obtain ⟨hbuffers, hcounter, hlinger, hrequest, hfailures, hdropped⟩ := h.pool
  obtain ⟨hcopyA, hcopyB, hinUse, hgeneration, hphase, hjudged⟩ := h.loader
  have hchannels : s.channels = Vector.replicate 2 ChannelEngine.reset := Vector.ext fun i hi => by
    obtain ⟨hq, hf, hw, hl⟩ := h.channels ⟨i, hi⟩
    rw [Vector.getElem_replicate]
    change ChannelEngine.mk (s.channel ⟨i, hi⟩).queue (s.channel ⟨i, hi⟩).frame (s.channel ⟨i, hi⟩).waiting
      (s.channel ⟨i, hi⟩).lastGranted = _
    rw [hq, hf, hw, hl]
    rfl
  have hdevices : s.devices = Vector.replicate 8 DeviceRecord.reset := Vector.ext fun i hi => by
    obtain ⟨hstate, hlimit, hcycle, hpoll, hcount, hconfirming, hslot, hpages, hfailed⟩ := h.devices ⟨i, hi⟩
    rw [Vector.getElem_replicate]
    change DeviceRecord.mk (s.device ⟨i, hi⟩).state (s.device ⟨i, hi⟩).wakeLimit (s.device ⟨i, hi⟩).cycleTimer
      (s.device ⟨i, hi⟩).pollTimer (s.device ⟨i, hi⟩).noAnswer (s.device ⟨i, hi⟩).confirming (s.device ⟨i, hi⟩).slot
      (s.device ⟨i, hi⟩).pagesProgrammed (s.device ⟨i, hi⟩).failedAttempts = _
    rw [hstate, hlimit, hcycle, hpoll, hcount, hconfirming, hslot, hpages, hfailed]
    rfl
  have hslots {α : Type} {n : Nat} (v : Vector α n) (a : α) (hv : ∀ i : Fin n, v[i] = a) : v = Vector.replicate n a :=
    Vector.ext fun i hi => (hv ⟨i, hi⟩).trans (Vector.getElem_replicate _).symm
  have hentries' := hslots s.orders.entries none hentries
  have hdeferred' := hslots s.reader.deferred [] hdeferred
  have hbuffers' := hslots s.pool.buffers none hbuffers
  have hzones := hslots s.zones.entries none h.zones
  have hgeometry := hslots s.loader.geometry none h.geometry
  refine ⟨?_, ?_, ?_, ?_, ?_, ?_, ?_, hchannels, hdevices, ?_, ?_⟩
  · change HostPort.mk s.host.part s.host.run s.host.intEnable s.host.faultIntEnable s.host.setupAddr s.host.fault
      s.host.resetPending s.host.setupRequest s.host.engine s.host.requests = _
    rw [hpart, hrun, hie, hfe, haddr, hfault, hpending, hengine, hsetup, hrequests]
    rfl
  · change RingFetch.mk s.fetch.config s.fetch.normalHead s.fetch.normalTail s.fetch.urgentHead s.fetch.urgentTail
      s.fetch.urgentRun = _
    rw [hconfig, hnh, hnt, huh, hut, hrun4]
    rfl
  · change Poster.mk s.poster.tail s.poster.head s.poster.serial = _
    rw [htail, hhead, hserial]
    rfl
  · change OrderTable.mk s.orders.entries s.orders.sequence s.orders.done = _
    rw [hentries', hsequence, hdone]
    rfl
  · change GatherEngine.mk s.gather.queue s.gather.turn = _
    rw [hqueue, hturn]
    rfl
  · change ReadEngine.mk s.reader.waiting s.reader.active s.reader.deferred s.reader.ready = _
    rw [hwaiting, hactive, hready, hdeferred']
    rfl
  · change Pool.mk s.pool.buffers s.pool.sequence s.pool.linger s.pool.request s.pool.failures s.pool.dropped = _
    rw [hbuffers', hcounter, hlinger, hrequest, hfailures, hdropped]
    rfl
  · exact congrArg (fun z => (⟨z, s.zones.guard⟩ : ZoneTable)) hzones
  · change Loader.mk s.loader.bootWidth s.loader.geometry s.loader.copyA s.loader.copyB s.loader.inUse s.loader.generation
      s.loader.phase s.loader.judgedA = _
    rw [hgeometry, hcopyA, hcopyB, hinUse, hgeneration, hphase, hjudged]
    rfl

/-- R164: the release of HRST is the event of a local reset. -/
theorem State.release_eq_localReset {s : State} (h : s.HeldInReset) (bw : Bool) :
    { s.newEvent with pins := { s.pins with hrst := false, bw } }.beginLoading = (s.newEvent.setBW bw).localReset := by
  obtain ⟨hhost, hfetch, hposter, horders, hgather, hreader, hpool, hchannels, hdevices, hzones, hloader⟩ := h.blocks
  have hline := h.lines.2
  obtain ⟨pins, host, fetch, poster, orders, gather, reader, pool, channels, devices, zones, loader, event, sg, sr, pending⟩ := s
  obtain ⟨hrst, grd, oldBw, intreq⟩ := pins
  dsimp only at hhost hfetch hposter horders hgather hreader hpool hchannels hdevices hzones hloader hline
  subst hhost hfetch hposter horders hgather hreader hpool hchannels hdevices hline
  rw [hzones, hloader]
  rfl

theorem exec_hrstRelease_held {s : State} (h : s.HeldInReset) (bw : Bool) :
    exec (.hrstRelease bw) s = .next (s.newEvent.setBW bw).localReset.conclude := by
  rw [exec, execHrstRelease, if_pos h.lines.1, State.release_eq_localReset h]

/-- Settles O6. -/
theorem hrstReleaseBeginsLoading : Obligations.HrstReleaseBeginsLoading := by
  refine ⟨fun s bw h => ⟨_, exec_hrstRelease_held h bw, State.localReset_loadingBegun _, ?_⟩,
    fun s bw h => by simp [exec, execHrstRelease, h]⟩
  obtain ⟨-, -, hie, hfe, haddr, -⟩ := h.host
  rw [State.localReset_conclude]
  exact ⟨haddr, hie, hfe, rfl⟩

/-- R163: with a reset pending, or a transfer on the bus, a LOCAL_RESET takes its enables and is pending. -/
theorem exec_localReset_pending {s : State} (ie fe bw : Bool) (hrst : s.pins.hrst = false)
    (h : s.host.resetPending = true ∨ s.host.engine ≠ none) : exec (.localReset ie fe bw) s = .next (State.conclude
      { s.newEvent with host := { s.host with intEnable := ie, faultIntEnable := fe, resetPending := true } }) := by
  rw [exec, execLocalReset]
  refine State.react_some _ _ _ hrst ?_
  dsimp only
  by_cases hpending : s.host.resetPending = true
  · have hself : s.host = { s.host with resetPending := true } := by rw [← hpending]
    refine (if_pos hpending).trans ?_
    exact congrArg (fun h => some { s.newEvent with host := { h with intEnable := ie, faultIntEnable := fe } }) hself
  · have hbusy : s.newEvent.host.engine.isNone = false := by
      simpa [Option.isNone_eq_false_iff, Option.isSome_iff_ne_none] using h.resolve_left hpending
    refine (if_neg hpending).trans ?_
    rw [hbusy]
    rfl

/-- Settles O8: with the engine idle at once, else pending. -/
theorem localResetAtOnceOrPending : Obligations.LocalResetAtOnceOrPending := by
  refine ⟨fun s ie fe bw hlive hidle => ⟨_, s.localReset_answers ie fe bw hlive hidle, State.localReset_loadingBegun _, ?_⟩,
    fun s ie fe bw hrst h => ⟨_, exec_localReset_pending ie fe bw hrst h, rfl⟩⟩
  rw [State.localReset_conclude]
  exact ⟨rfl, rfl, rfl, rfl⟩

/-! ### A pending reset -/

/-- R163: the end of the burst in progress is the event of a pending reset. -/
theorem State.react_burstEnd_pending {s : State} {x : Transfer} {kind : Job → Bool} {ready : Transfer → Bool}
    {act : Transfer → State → State} (hrst : s.pins.hrst = false) (hpending : s.host.resetPending = true)
    (hbus : s.host.engine = some x) (hkind : kind x.job = true) (hready : ready x = true) :
    s.react (fun v => (v.onBus kind ready).map fun x => v.burstEnd (act x))
      = .next (s.newEvent.setBW (Config.bwLevel (s.event + 1))).localReset.conclude := by
  refine State.react_some _ _ _ hrst ?_
  rw [s.onBus_some x kind ready hbus hkind hready, Option.map_some, State.burstEnd]
  exact congrArg some (if_pos hpending)

/-- R71, R163: the fetched order's burst included. -/
theorem exec_fetched_pending {s : State} {x : Transfer} {k : Kind} {r : OrderRecord} {handOn : EntryId → State → State}
    (hrst : s.pins.hrst = false) (hpending : s.host.resetPending = true) (hbus : s.host.engine = some x)
    (hjob : Job.isFetch x.job = true) :
    s.accept k r handOn = .next (s.newEvent.setBW (Config.bwLevel (s.event + 1))).localReset.conclude :=
  State.react_burstEnd_pending hrst hpending hbus hjob rfl

/-- R157, R158: the commands that end a burst, each with its transfer. -/
theorem endsBurst_cases {c : Instr} {x : Transfer} (h : c.endsBurst x = true) :
    (c = .masterBurstComplete ∧ (!x.lastBurst) = true)
    ∨ (∃ n, c = .masterBurstRetry n ∧ decide (x.taken + n < x.burst) = true)
    ∨ (∃ r, c = .setupBlockReadEnd r ∧ x.job = .setupRead ∧ x.lastBurst = true)
    ∨ (∃ f ring slot, c = .orderFetchHostFault f ∧ x.job = .orderFetch ring slot)
    ∨ (∃ r e, c = .completionWriteEnd r ∧ x.job = .completionWrite e ∧ x.mayEndWrite r = true)
    ∨ (∃ r e, c = .writeDataReadEnd r ∧ x.job = .writeData e ∧ x.mayEndRead r = true)
    ∨ (∃ r e, c = .readDataStoreEnd r ∧ x.job = .readData e ∧ x.mayEndWrite r = true)
    ∨ (∃ r e, c = .reportStoreEnd r ∧ x.job = .reportStore e ∧ x.mayEndWrite r = true)
    ∨ (∃ ring slot, x.job = .orderFetch ring slot ∧ c.slot?.isSome = true) := by
  unfold Instr.endsBurst at h
  split at h
  · exact .inl ⟨rfl, h⟩
  · exact .inr (.inl ⟨_, rfl, h⟩)
  · next hjob => exact .inr (.inr (.inl ⟨_, rfl, hjob, h⟩))
  · next hjob => exact .inr (.inr (.inr (.inl ⟨_, _, _, rfl, hjob⟩)))
  · next hjob => exact .inr (.inr (.inr (.inr (.inl ⟨_, _, rfl, hjob, h⟩))))
  · next hjob => exact .inr (.inr (.inr (.inr (.inr (.inl ⟨_, _, rfl, hjob, h⟩)))))
  · next hjob => exact .inr (.inr (.inr (.inr (.inr (.inr (.inl ⟨_, _, rfl, hjob, h⟩))))))
  · next hjob => exact .inr (.inr (.inr (.inr (.inr (.inr (.inr (.inl ⟨_, _, rfl, hjob, h⟩)))))))
  · exact .inr (.inr (.inr (.inr (.inr (.inr (.inr (.inr ⟨_, _, ‹x.job = .orderFetch _ _›, h⟩)))))))
  · cases h

/-- R157, R158, R163: so for every command that ends the burst of the transfer on the bus. -/
theorem exec_endsBurst_pending {s : State} {x : Transfer} {c : Instr} (hrst : s.pins.hrst = false)
    (hpending : s.host.resetPending = true) (hbus : s.host.engine = some x) (hc : c.endsBurst x = true) :
    exec c s = .next (s.newEvent.setBW (Config.bwLevel (s.event + 1))).localReset.conclude := by
  have hburst {kind : Job → Bool} {ready : Transfer → Bool} {act : Transfer → State → State} (hkind : kind x.job = true)
      (hready : ready x = true) := State.react_burstEnd_pending (act := act) hrst hpending hbus hkind hready
  rcases endsBurst_cases hc with ⟨rfl, h⟩ | ⟨n, rfl, h⟩ | ⟨r, rfl, hjob, h⟩ | ⟨f, ring, slot, rfl, hjob⟩ | ⟨r, e, rfl, hjob, h⟩
    | ⟨r, e, rfl, hjob, h⟩ | ⟨r, e, rfl, hjob, h⟩ | ⟨r, e, rfl, hjob, h⟩ | ⟨ring, slot, hjob, h⟩
  · rw [exec]; exact hburst rfl h
  · rw [exec]; exact hburst rfl h
  · rw [exec]; exact hburst (by rw [hjob]; rfl) h
  · rw [exec]; exact hburst (by rw [hjob]; rfl) rfl
  · rw [exec]; exact hburst (by rw [hjob]; rfl) h
  · rw [exec]; exact hburst (by rw [hjob]; rfl) h
  · rw [exec]; exact hburst (by rw [hjob]; rfl) h
  · rw [exec]; exact hburst (by rw [hjob]; rfl) h
  · have hfetched {k : Kind} {r : OrderRecord} {handOn : EntryId → State → State} :=
      exec_fetched_pending (k := k) (r := r) (handOn := handOn) hrst hpending hbus (by rw [hjob]; rfl)
    cases c with
    | read _ | write _ | fill _ | flush _ | setZone _ | setGeometry _ | storeProfile _ | cancel _ | revive _ | report _
    | unknownKind _ _ => rw [exec]; exact hfetched
    | _ => cases h

/-- Settles O9. -/
theorem pendingResetAtBurstEnd : Obligations.PendingResetAtBurstEnd := by
  intro s x c bw hrst hpending hbus hc
  have hexec : exec c s = .next (s.newEvent.setBW bw).localReset.conclude := by
    rcases hc with rfl | ⟨hends, rfl⟩
    · exact s.localResetAtBurstEnd_answers x bw hrst hpending hbus
    · exact exec_endsBurst_pending hrst hpending hbus hends
  refine ⟨_, hexec, State.localReset_loadingBegun _, ?_⟩
  rw [State.localReset_conclude]
  exact ⟨rfl, rfl, rfl, rfl⟩

end Sys2Proof.Machine
end

section
/-! PROOFS. The master engine's bursts and the ends of its transfers (R99, R104, R125, R126, R157 to R160, R171, R173, R177, R182): what a
command that ends a burst does while no reset is pending, and the obligations BurstsOfTransfer, HaltingHostFaults, CompletionWritten,
WriteDataArrives, ReadDataStored and ReportStored. -/

namespace Sys2Proof.Machine

/-! ### A burst ends -/

/-- R157, R163: with its transfer on the bus, a command that ends a burst is an event of that transfer. -/
theorem State.react_onBus {s : State} {x : Transfer} {kind : Job → Bool} {ready : Transfer → Bool}
    {act : Transfer → State → State} (hbus : s.host.engine = some x) (hkind : kind x.job = true) (hready : ready x = true) :
    s.react (fun v => (v.onBus kind ready).map fun x => v.burstEnd (act x)) = s.react fun v => some (v.burstEnd (act x)) := by
  simp only [State.react, s.onBus_some x kind ready hbus hkind hready, Option.map_some]

/-- While no reset is pending the event has the transfer's own effect. -/
theorem State.react_burst {s : State} {x : Transfer} {kind : Job → Bool} {ready : Transfer → Bool}
    {act : Transfer → State → State} (hlive : s.Live) (hbus : s.host.engine = some x) (hkind : kind x.job = true)
    (hready : ready x = true) :
    s.react (fun v => (v.onBus kind ready).map fun x => v.burstEnd (act x)) = .next (act x s.newEvent).conclude := by
  rw [State.react_onBus hbus hkind hready]
  exact State.react_some _ _ _ hlive.1 (congrArg some (State.burstEnd_live s.newEvent _ hlive.2))

theorem Transfer.lastBurst_iff (x : Transfer) : x.lastBurst = true ↔ x.words ≤ x.moved + x.inBurst := by
  rw [Transfer.lastBurst, x.burst_eq_inBurst, decide_eq_true_iff]

theorem Transfer.mayEndWrite_complete (x : Transfer) (h : x.words ≤ x.moved + x.inBurst) : x.mayEndWrite .complete = true :=
  x.lastBurst_iff.2 h

/-- Two events of a burst's end that have the same effect lead to the same state, whether HRST is asserted or a reset pending. -/
theorem State.react_burst_congr {s : State} {act act' : State → State} (h : act s.newEvent = act' s.newEvent) :
    (s.react fun v => some (v.burstEnd act)) = s.react fun v => some (v.burstEnd act') := by
  simp only [State.react, State.burstEnd, h]

theorem next_of_eq {u v : State} (h : u = v) :
    (Host.Outcome.next u.conclude : Host.Outcome State Fault Refusal) = .next v.conclude := by rw [h]

/-! ### What an end of an order and a closing leave alone -/

theorem State.goDone_shape (s : State) (e : EntryId) (r : Result) : ∃ o : OrderTable, s.goDone e r = { s with orders := o } :=
  ⟨_, s.goDone_frame e r⟩

theorem State.closeAll_shape (s : State) (l : List BufferId) : ∃ (buffers : Vector (Option Buffer) 16) (channels : Vector ChannelEngine 2),
    s.closeAll l = { s with pool := { s.pool with buffers }, channels } :=
  ⟨_, _, s.closeAll_frame l⟩

/-- The end of an order concerns the Order Table alone. -/
theorem State.EndsOrder.of_orders {s s' u u' : State} {e : EntryId} {x : Entry} {r : Result} (h : s.EndsOrder u e x r)
    (hs : s'.orders = s.orders) (hu : u'.orders = u.orders) : s'.EndsOrder u' e x r where
  entry := (congrArg (fun o : OrderTable => o.entries[e]) hu).trans h.entry
  done := by rw [hu, hs, h.done]
  others e' hne := (congrArg (fun o : OrderTable => o.entries[e']) hu).trans
    ((h.others e' hne).trans (congrArg (fun o : OrderTable => o.entries[e']) hs.symm))
  sequence := by rw [hu, hs, h.sequence]

/-- R80, R91: an order that no engine has started in this event ends, whatever else the two states differ in. -/
theorem State.goDone_ends {s w : State} {e : EntryId} {x : Entry} {r : Result} (hw : w.orders = s.orders) (hx : s.entry? e = some x)
    (hgather : w.startedGather = []) (hread : w.startedRead = []) : s.EndsOrder (w.goDone e r) e x r :=
  (w.goDone_endsOrder e x r ((congrArg (fun o : OrderTable => o.entries[e]) hw).trans hx) hgather hread).of_orders hw.symm rfl

/-! ### Bursts inside a transfer -/

/-- R158: the 64th RETRY in a row with no word taken is routed as a host fault. -/
theorem exec_lastRetry {s : State} {x : Transfer} (hbus : s.host.engine = some x) (htaken : x.taken < x.inBurst)
    (hretries : 63 ≤ x.retries) :
    exec (.masterBurstRetry 0) s = s.react fun v => some (v.burstEnd fun v => v.routeFault x) := by
  have hready : decide (x.taken + 0 < x.burst) = true := by rw [x.burst_eq_inBurst]; exact decide_eq_true htaken
  have hcount : 64 ≤ (x.retry 0).retries := Nat.succ_le_succ hretries
  rw [exec, execMasterBurstRetry, State.react_onBus hbus rfl hready]
  exact State.react_burst_congr (if_pos hcount)

/-- Settles O19: the next burst, the RETRY within its bound, and the RETRY that is a host fault, for each kind of transfer. -/
theorem burstsOfTransfer : Obligations.BurstsOfTransfer := by
  refine ⟨fun s x hlive hbus => ⟨fun hmore => ⟨_, ?_, rfl⟩, fun k htaken hfew => ⟨_, ?_, rfl⟩⟩, fun s x hbus htaken hretries hsetup => ?_⟩
  · have hready : (!x.lastBurst) = true := by
      rw [Bool.not_eq_true', Bool.eq_false_iff, ne_eq, x.lastBurst_iff]
      omega
    rw [exec, execMasterBurstComplete, State.react_burst hlive hbus rfl hready, Transfer.nextBurst, x.burst_eq_inBurst]
    rfl
  · have hready : decide (x.taken + k < x.burst) = true := by rw [x.burst_eq_inBurst]; exact decide_eq_true htaken
    have hcount : ¬ 64 ≤ (x.retry k).retries := by
      unfold Transfer.retry
      dsimp only
      split
      · next hk =>
        have := hfew hk
        omega
      · omega
    rw [exec, execMasterBurstRetry, State.react_burst hlive hbus rfl hready, if_neg hcount]
    rfl
  · rw [exec_lastRetry hbus htaken hretries]
    cases hjob : x.job with
    | setupRead =>
      have hlast := x.lastBurst_iff.2 (hsetup hjob)
      rw [exec, execSetupBlockReadEnd, State.react_onBus hbus (by rw [hjob]; rfl) hlast]
    | orderFetch ring slot => rw [exec, execOrderFetchHostFault, State.react_onBus hbus (by rw [hjob]; rfl) rfl]
    | completionWrite e =>
      rw [exec, execCompletionWriteEnd, State.react_onBus hbus (by rw [hjob]; rfl) rfl]
    | writeData e => rw [exec, execWriteDataReadEnd, State.react_onBus hbus (by rw [hjob]; rfl) rfl]
    | readData e => rw [exec, execReadDataStoreEnd, State.react_onBus hbus (by rw [hjob]; rfl) rfl]
    | reportStore e => rw [exec, execReportStoreEnd, State.react_onBus hbus (by rw [hjob]; rfl) rfl]

/-! ### Halting host faults -/

/-- Settles O21: the routing of a host fault by the kind of transfer. -/
theorem haltingHostFaults : Obligations.HaltingHostFaults := by
  intro s x f hlive hbus hused
  refine ⟨fun hjob hlast => ⟨_, ?_, rfl⟩, fun ring slot hjob => ⟨_, ?_, rfl⟩, fun e hjob => ⟨_, ?_, rfl⟩⟩
  · rw [exec, execSetupBlockReadEnd, State.react_burst hlive hbus (by rw [hjob]; rfl) (x.lastBurst_iff.2 hlast)]
    simp only [State.routeFault, hused, hjob]
    rfl
  · rw [exec, execOrderFetchHostFault, State.react_burst hlive hbus (by rw [hjob]; rfl) rfl]
    simp only [State.routeFault, hused, hjob]
    rfl
  · rw [exec, execCompletionWriteEnd, State.react_burst hlive hbus (by rw [hjob]; rfl) rfl]
    simp only [State.routeFault, hused, hjob]
    rfl

/-! ### Completion writes -/

/-- Settles O22. -/
theorem completionWritten : Obligations.CompletionWritten := by
  intro s x e c rest hlive hbus hjob hlast hconfig hdone hnot
  have hexec : exec (.completionWriteEnd .complete) s = .next ((s.newEvent.setEngine none).posted e).conclude := by
    rw [exec, execCompletionWriteEnd, State.react_burst hlive hbus (by rw [hjob]; rfl) (x.mayEndWrite_complete hlast), hjob]
  have hrest : s.orders.done.filter (· ≠ e) = rest := by
    rw [hdone, List.filter_cons_of_neg (by simp), List.filter_eq_self]
    exact fun e' he' => decide_eq_true fun k => hnot (k ▸ he')
  have hconfig' : (s.newEvent.setEngine none).fetch.config = some c := hconfig
  refine ⟨_, hexec, ?_, fun e' => State.entry_posted _ e e'⟩
  rw [← hrest]
  simp only [State.posted, hconfig']
  rfl

/-! ### Write data -/

theorem State.atTurn_is {s : State} {t : Turn} {y : Entry} (hturn : s.gather.turn = some t) (hy : s.entry? t.entry = some y) :
    s.atTurn = some (t, y) := by
  simp [State.atTurn, hturn, hy]

theorem State.buffer_leaveContributors (s : State) (e : EntryId) (b : BufferId) :
    (s.leaveContributors e).buffer? b = (s.buffer? b).map fun y => { y with contributors := y.contributors.filter (· ≠ e) } :=
  s.mapBuffers_buffer b _

/-- R99: the data of the span in hand. -/
theorem State.takeData_eq {s : State} {t : Turn} {y : Entry} {sp : Span} (hturn : s.gather.turn = some t)
    (hy : s.entry? t.entry = some y) (hsp : t.span = some sp) (words : List Word) :
    s.takeData words = { s with gather := { s.gather with turn := some { t with
      bytes := some (spanBytes (y.record.buffer.toNat + (sp.address - y.record.address.toNat)) sp.length words) } } } := by
  simp only [State.takeData, State.atTurn_is hturn hy, hsp, State.mapTurn, hturn, Option.map_some]

/-- R104: the failure of a WRITE, step by step. -/
theorem State.failWrite_eq {s : State} {t : Turn} {y : Entry} (hturn : s.gather.turn = some t) (hy : s.entry? t.entry = some y) :
    s.failWrite = (((s.leaveContributors t.entry).closeAll (if s.pool.linger = 0 then t.touched else t.joined)).goDone t.entry
      (.plain .hostFault y.progress)).releaseTurn := by
  simp only [State.failWrite, State.atTurn_is hturn hy]

/-- The closing of a list concerns the buffers and the queues of the channels alone. -/
theorem State.ClosesListed.of_same {s s' u u' : State} {l : List BufferId} (h : s.ClosesListed u l)
    (hspool : s'.pool.buffers = s.pool.buffers) (hschannels : s'.channels = s.channels)
    (hupool : u'.pool.buffers = u.pool.buffers) (huchannels : u'.channels = u.channels) : s'.ClosesListed u' l where
  buffers b := by simpa only [State.buffer?, hspool, hupool] using h.buffers b
  queues c := by simpa only [State.buffer?, State.channel, hspool, hschannels, huchannels] using h.queues c

/-- R104: what the failure of a WRITE closes and ends, and all that it changes. -/
theorem State.failWrite_fails {s : State} {t : Turn} {y : Entry} (hturn : s.gather.turn = some t) (hy : s.entry? t.entry = some y)
    (hnodup : (if s.pool.linger = 0 then t.touched else t.joined).Nodup) (hgather : s.startedGather = [])
    (hread : s.startedRead = []) :
    (s.leaveContributors t.entry).ClosesListed s.failWrite (if s.pool.linger = 0 then t.touched else t.joined)
    ∧ s.EndsOrder s.failWrite t.entry y (.plain .hostFault y.progress)
    ∧ s.failWrite = { s with
        orders := s.failWrite.orders, channels := s.failWrite.channels
        pool := { s.pool with buffers := s.failWrite.pool.buffers }, gather := { s.gather with turn := none } } := by
  have hcloses := (s.leaveContributors t.entry).closeAll_closes _ hnodup
  obtain ⟨buffers, channels, hclosed⟩ := (s.leaveContributors t.entry).closeAll_shape
    (if s.pool.linger = 0 then t.touched else t.joined)
  obtain ⟨orders, hdone⟩ := State.goDone_shape { s.leaveContributors t.entry with
    pool := { (s.leaveContributors t.entry).pool with buffers }, channels } t.entry (.plain .hostFault y.progress)
  have hends := State.goDone_ends (s := s) (w := { s.leaveContributors t.entry with
    pool := { (s.leaveContributors t.entry).pool with buffers }, channels }) (r := .plain .hostFault y.progress) rfl hy hgather hread
  rw [hclosed] at hcloses
  rw [hdone] at hends
  rw [State.failWrite_eq hturn hy, hclosed, hdone]
  exact ⟨hcloses.of_same rfl rfl rfl rfl, hends.of_orders rfl rfl, rfl⟩

/-- Settles O23: the data of the span, then the host fault. -/
theorem writeDataArrives : Obligations.WriteDataArrives := by
  intro s x t y hlive hbus hjob hturn hy
  have hkind : Job.isWriteData x.job = true := by rw [hjob]; rfl
  refine ⟨fun words sp hlast hlength hused hsp => ?_, fun f hused htouched hjoined => ?_⟩
  · have hready : x.mayEndRead (.complete words) = true := by
      simp [Transfer.mayEndRead, x.lastBurst_iff.2 hlast, hlength]
    refine ⟨_, _, ?_, rfl, spanBytes_length (y.record.buffer.toNat + (sp.address - y.record.address.toNat)) sp.length words,
      fun i hi => spanBytes_get _ _ words i hi⟩
    rw [exec, execWriteDataReadEnd, State.react_burst hlive hbus hkind hready]
    simp only [hused, Bool.false_eq_true, if_false]
    rw [State.takeData_eq (s := s.newEvent.setEngine none) hturn hy hsp]
    rfl
  · have hfail : s.newEvent.routeFault x = (s.newEvent.setEngine none).failWrite := by
      simp [State.routeFault, hused, hjob]
    have hexec : exec (.writeDataReadEnd (.hostFault f)) s = .next (s.newEvent.setEngine none).failWrite.conclude := by
      rw [exec, execWriteDataReadEnd, State.react_burst hlive hbus hkind rfl]
      exact next_of_eq hfail
    have hnodup : (if s.pool.linger = 0 then t.touched else t.joined).Nodup := by split <;> assumption
    obtain ⟨hcloses, hends, hframe⟩ := State.failWrite_fails (s := s.newEvent.setEngine none) hturn hy hnodup rfl rfl
    exact ⟨_, s.newEvent.leaveContributors t.entry, hexec, rfl, fun b => s.newEvent.buffer_leaveContributors _ b,
      hcloses.of_same rfl rfl rfl rfl, hends.of_orders rfl rfl, hframe⟩

/-! ### Read data and reports -/

theorem State.readInHand_is {s : State} {a : ActiveRead} {y : Entry} (hactive : s.reader.active = some a)
    (hy : s.entry? a.entry = some y) : s.readInHand = some (a, y) := by
  simp [State.readInHand, hactive, hy]

/-- Settles O24: the last span, a span before it, and the host fault. -/
theorem readDataStored : Obligations.ReadDataStored := by
  intro s x a y hlive hbus hjob hactive hy hread
  have hkind : Job.isReadData x.job = true := by rw [hjob]; rfl
  have hhand : (s.newEvent.setEngine none).readInHand = some (a, y) := State.readInHand_is hactive hy
  refine ⟨fun hlast hused => ?_, fun f hused => ?_⟩
  · have hdelivered : exec (.readDataStoreEnd .complete) s = .next ((s.newEvent.setEngine none).delivered a y).conclude := by
      rw [exec, execReadDataStoreEnd, State.react_burst hlive hbus hkind (x.mayEndWrite_complete hlast)]
      simp only [hused, hhand, Bool.false_eq_true, if_false]
    refine ⟨_, hdelivered, ?_⟩
    have htotal : y.total = y.record.length := by simp [Entry.total, hread]
    have hgrown (e : EntryId) := (s.newEvent.setEngine none).entry_mapEntry a.entry e
      fun x => { x with progress := x.progress + a.span.length }
    unfold State.delivered
    dsimp only
    rw [htotal]
    split
    · obtain ⟨orders, hdone⟩ := State.goDone_shape (State.setActive ((s.newEvent.setEngine none).mapEntry a.entry
        fun x => { x with progress := x.progress + a.span.length }) none) a.entry (.plain .ok y.record.length)
      have hends := State.goDone_endsOrder (State.setActive ((s.newEvent.setEngine none).mapEntry a.entry
        fun x => { x with progress := x.progress + a.span.length }) none) a.entry { y with progress := y.progress + a.span.length }
        (.plain .ok y.record.length) ((hgrown a.entry).trans (by rw [if_pos rfl]; exact congrArg _ hy)) rfl rfl
      exact ⟨by rw [hdone]; rfl, ⟨hends.entry, hends.done, fun e he => (hends.others e he).trans ((hgrown e).trans (if_neg he)),
        hends.sequence⟩⟩
    · have hgrows : ((s.newEvent.setEngine none).mapEntry a.entry fun x => { x with progress := x.progress + a.span.length }).entry?
          a.entry = some { y with progress := y.progress + a.span.length } :=
        (hgrown a.entry).trans (by rw [if_pos rfl]; exact congrArg _ hy)
      exact ⟨_, rfl, fun e he => (hgrown e).trans (if_neg he), hgrows, State.takeReadSpan_takes _ _ _ hgrows hread⟩
  · have hfailed : s.newEvent.routeFault x = (s.newEvent.setEngine none).deliveryFailed a y := by
      simp [State.routeFault, hused, hjob, hhand]
    have hexec : exec (.readDataStoreEnd (.hostFault f)) s = .next ((s.newEvent.setEngine none).deliveryFailed a y).conclude := by
      rw [exec, execReadDataStoreEnd, State.react_burst hlive hbus hkind rfl]
      exact next_of_eq hfailed
    refine ⟨_, hexec, ?_, State.goDone_ends rfl hy rfl rfl⟩
    obtain ⟨orders, hdone⟩ := ((s.newEvent.setEngine none).setActive none).goDone_shape a.entry (.plain .hostFault y.progress)
    rw [State.deliveryFailed, hdone]
    rfl

/-- Settles O25. -/
theorem reportStored : Obligations.ReportStored := by
  intro s x e y r hlive hbus hjob hused hy hlast
  have hkind : Job.isReport x.job = true := by rw [hjob]; rfl
  have hready : x.mayEndWrite r = true := by
    cases r with
    | complete => exact x.mayEndWrite_complete (hlast rfl)
    | hostFault f => rfl
  have hfault : s.newEvent.routeFault x = (s.newEvent.setEngine none).goDone e (.plain .hostFault 0) := by
    simp [State.routeFault, hused, hjob]
  cases r with
  | complete =>
    have hexec : exec (.reportStoreEnd .complete) s = .next ((s.newEvent.setEngine none).goDone e (.plain .ok 128)).conclude := by
      rw [exec, execReportStoreEnd, State.react_burst hlive hbus hkind hready, hjob]
    obtain ⟨orders, hdone⟩ := (s.newEvent.setEngine none).goDone_shape e (.plain .ok 128)
    refine ⟨_, hexec, ?_, State.goDone_ends rfl hy rfl rfl⟩
    rw [hdone]
    rfl
  | hostFault f =>
    have hexec : exec (.reportStoreEnd (.hostFault f)) s
        = .next ((s.newEvent.setEngine none).goDone e (.plain .hostFault 0)).conclude := by
      rw [exec, execReportStoreEnd, State.react_burst hlive hbus hkind hready]
      exact next_of_eq hfault
    obtain ⟨orders, hdone⟩ := (s.newEvent.setEngine none).goDone_shape e (.plain .hostFault 0)
    refine ⟨_, hexec, ?_, State.goDone_ends rfl hy rfl rfl⟩
    rw [hdone]
    rfl

end Sys2Proof.Machine
end

section
/-! PROOFS. Records as bytes (R183 to R185, R187, R188): what a part of a record, a little-endian field and a byte of it read back, the
words of an order slot and of a setup block, and the obligations CompletionRecordBytes, StoredProfileIsValidCopy and
SlotAndSetupRoundTrip. -/

namespace Sys2Proof.Machine

/-! ### Little-endian numbers -/

@[simp] theorem leBytes_length (n v : Nat) : (leBytes n v).length = n := by simp [leBytes]

theorem leBytes_succ (n v : Nat) : leBytes (n + 1) v = BitVec.ofNat 8 v :: leBytes n (v / 256) := by
  simp [leBytes, List.range_succ_eq_map, Function.comp_def, Nat.pow_succ', Nat.div_div_eq_div_mul]

theorem leBytes_drop (i n v : Nat) : (leBytes (i + n) v).drop i = leBytes n (v / 256 ^ i) := by
  induction i generalizing v with
  | zero => simp
  | succ i ih => rw [Nat.succ_add, leBytes_succ, List.drop_succ_cons, ih, Nat.div_div_eq_div_mul, Nat.pow_succ']

theorem leBytes_take (k n v : Nat) : (leBytes (k + n) v).take k = leBytes k v := by
  simp [leBytes, ← List.map_take, List.take_range]

theorem ofLeBytes_leBytes (n v : Nat) : ofLeBytes (leBytes n v) = v % 256 ^ n := by
  induction n generalizing v with
  | zero => simp [leBytes, ofLeBytes, Nat.mod_one]
  | succ n ih =>
    rw [leBytes_succ, ofLeBytes, ih, Nat.pow_succ', Nat.mod_mul, BitVec.toNat_ofNat]

theorem ofLeBytes_leBytes_of_lt (n v : Nat) (h : v < 256 ^ n) : ofLeBytes (leBytes n v) = v := by
  rw [ofLeBytes_leBytes, Nat.mod_eq_of_lt h]

theorem ofLeBytes_append (a b : List Byte) : ofLeBytes (a ++ b) = ofLeBytes a + 256 ^ a.length * ofLeBytes b := by
  induction a with
  | nil => simp [ofLeBytes]
  | cons x a ih =>
    rw [List.cons_append, ofLeBytes, ofLeBytes, ih, List.length_cons, Nat.pow_succ']
    ring

/-- A field of a number. -/
theorem fieldAt_leBytes (n v i k : Nat) (h : i + k ≤ n) : fieldAt (leBytes n v) i k = v / 256 ^ i % 256 ^ k := by
  obtain ⟨m, rfl⟩ := Nat.exists_eq_add_of_le h
  rw [fieldAt, Nat.add_assoc, leBytes_drop, leBytes_take, ofLeBytes_leBytes]

theorem byteAt_leBytes (n v i : Nat) (h : i < n) : byteAt (leBytes n v) i = BitVec.ofNat 8 (v / 256 ^ i) := by
  simp [byteAt, leBytes, List.getD_eq_getElem?_getD, List.getElem?_range h]

/-- A field cut in two. -/
theorem fieldAt_add (bytes : List Byte) (o a b : Nat) (h : o + a ≤ bytes.length) :
    fieldAt bytes o (a + b) = fieldAt bytes o a + 256 ^ a * fieldAt bytes (o + a) b := by
  have hlength : ((bytes.drop o).take a).length = a := by
    rw [List.length_take, List.length_drop]
    omega
  rw [fieldAt, List.take_add, ofLeBytes_append, hlength, List.drop_drop]
  rfl

/-! ### The parts of a record -/

/-- The bytes `l` stand in the record at offset `o`. -/
def StandsAt (bytes : List Byte) (o : Nat) (l : List Byte) : Prop := l <+: bytes.drop o

theorem standsAt_zero (l : List Byte) : StandsAt l 0 l := List.prefix_rfl

theorem StandsAt.append_left {a : List Byte} {o : Nat} {l : List Byte} (h : StandsAt a o l) (hl : l ≠ []) (b : List Byte) :
    StandsAt (a ++ b) o l := by
  have ho : o ≤ a.length := by
    by_contra hlong
    rw [StandsAt, List.drop_eq_nil_of_le (by omega), List.prefix_nil] at h
    exact hl h
  rw [StandsAt, List.drop_append_of_le_length ho]
  exact h.trans (List.prefix_append _ _)

theorem StandsAt.append_right {b : List Byte} {o : Nat} {l : List Byte} (h : StandsAt b o l) (a : List Byte) (n : Nat)
    (hn : a.length = n) : StandsAt (a ++ b) (n + o) l := by
  rw [StandsAt, ← hn, List.drop_length_add_append]
  exact h

/-- Of records of one length laid end to end, each stands at its place. -/
theorem standsAt_flatMap {α : Type} (f : α → List Byte) (k : Nat) (hk : ∀ x, (f x).length = k) (l : List α) (i : Nat)
    (hi : i < l.length) : StandsAt (l.flatMap f) (k * i) (f l[i]) := by
  induction l generalizing i with
  | nil => exact absurd hi (Nat.not_lt_zero _)
  | cons x l ih =>
    rw [List.flatMap_cons]
    match i with
    | 0 => exact List.prefix_append _ _
    | i + 1 =>
      have hstands := (ih i (Nat.lt_of_succ_lt_succ hi)).append_right (f x) k (hk x)
      rw [Nat.mul_succ, Nat.add_comm]
      exact hstands

theorem flatMap_length {α : Type} (f : α → List Byte) (k : Nat) (hk : ∀ x, (f x).length = k) (l : List α) :
    (l.flatMap f).length = l.length * k := by
  simp [List.length_flatMap, hk]

theorem StandsAt.getElem? {bytes l : List Byte} {o : Nat} (h : StandsAt bytes o l) (i : Nat) (hi : i < l.length) :
    bytes[o + i]? = l[i]? := by
  obtain ⟨rest, hrest⟩ := h
  rw [← List.getElem?_drop, ← hrest, List.getElem?_append_left hi]

theorem StandsAt.byteAt {bytes l : List Byte} {o : Nat} (h : StandsAt bytes o l) (i : Nat) (hi : i < l.length) :
    byteAt bytes (o + i) = Machine.byteAt l i := by
  simp only [Machine.byteAt, List.getD_eq_getElem?_getD, h.getElem? i hi]

theorem StandsAt.fieldAt {bytes l : List Byte} {o : Nat} (h : StandsAt bytes o l) (i n : Nat) (hi : i + n ≤ l.length) :
    fieldAt bytes (o + i) n = Machine.fieldAt l i n := by
  obtain ⟨rest, hrest⟩ := h
  rw [Machine.fieldAt, Machine.fieldAt, ← List.drop_drop, ← hrest, List.drop_append_of_le_length (by omega),
    List.take_append_of_le_length (by rw [List.length_drop]; omega)]

theorem StandsAt.take {bytes l : List Byte} {o : Nat} (h : StandsAt bytes o l) : (bytes.drop o).take l.length = l :=
  List.prefix_iff_eq_take.1 h |>.symm

/-! ### The completion record -/

/-- Settles O18: the record's bytes are written out, and each field is read back from its place. -/
theorem completionRecordBytes : Obligations.CompletionRecordBytes := by
  intro serial x r hslot hpage
  refine ⟨_, rfl, ?_⟩
  have hserial := ofLeBytes_leBytes_of_lt 2 _ serial.isLt
  have htag := ofLeBytes_leBytes_of_lt 2 _ x.record.tag.isLt
  have hplace := ofLeBytes_leBytes 2 (x.slot % 2048 + (if x.ring = .urgent then 32768 else 0))
  have hcount := ofLeBytes_leBytes_of_lt 4 _ r.count.isLt
  have hkind : x.kind.code.toNat = (match x.kind with
      | .read => 1 | .write => 2 | .fill => 3 | .flush => 4 | .cancel => 5 | .setZone => 6 | .setGeometry => 7
      | .storeProfile => 8 | .revive => 9 | .report => 10 | .unknown c => c.toNat) := by
    cases x.kind <;> rfl
  have hstatus : r.status.code.toNat = (match r.status with
      | .ok => 0 | .badOrder => 1 | .noDevice => 2 | .badRange => 3 | .reservedArea => 4 | .protection => 5
      | .deviceOffline => 6 | .pageFailed => 7 | .lateFailures => 8 | .hostFault => 9 | .cancelled => 10
      | .profileFull => 11) := by
    cases r.status <;> rfl
  have hring : (x.slot % 2048 + (if x.ring = .urgent then 32768 else 0)) % 256 ^ 2
      = x.slot + (match x.ring with | .normal => 0 | .urgent => 2 ^ 15) := by
    cases x.ring <;> simp <;> omega
  rw [hring] at hplace
  cases hf : r.failure with
  | none =>
    unfold completionBytes
    rw [hf]
    exact ⟨rfl, hserial, htag, hplace, hkind, hstatus, ⟨rfl, rfl, rfl⟩, hcount⟩
  | some f =>
    unfold completionBytes
    rw [hf]
    have hpages := ofLeBytes_leBytes_of_lt 2 f.page (hpage f hf)
    have hdevice : (BitVec.ofNat 8 f.device.val).toNat = f.device.val := by
      rw [BitVec.toNat_ofNat]
      omega
    have hcause : f.cause.code.toNat = (match f.cause with
        | .protection => 1 | .noCycle => 2 | .deviceFlag => 3 | .verify => 4 | .timeout => 5 | .offline => 6) := by
      cases f.cause <;> rfl
    exact ⟨rfl, hserial, htag, hplace, hkind, hstatus, ⟨hdevice, hpages, hcause⟩, hcount⟩

/-! ### The profile record -/

theorem geometryBytes_length (o : Option Geometry) : (geometryBytes o).length = 8 := by cases o <;> rfl

theorem zoneBytes_length (o : Option Zone) : (zoneBytes o).length = 8 := by cases o <;> rfl

/-- R27: the bounds of a legal geometry. -/
theorem Geometry.legal_bounds {g : Geometry} (h : g.legal = true) :
    1 ≤ g.pageCount ∧ g.pageCount ≤ 65536 ∧ 1 ≤ g.cycleTimeout ∧ g.cycleTimeout ≤ 255 := by
  simp only [Geometry.legal, Bool.and_eq_true, decide_eq_true_eq] at h
  obtain ⟨⟨⟨⟨h1, h2⟩, h3⟩, h4⟩, -⟩ := h
  exact ⟨h1, h2, h3, h4⟩

theorem geometryLegal_at {gs : Vector (Option Geometry) 8} (h : geometryLegal gs = true) (d : DevicePos) (g : Geometry)
    (hg : gs[d] = some g) : g.legal = true := by
  rw [geometryLegal, Bool.and_eq_true, List.all_eq_true] at h
  have hd := h.1 d (List.mem_finRange d)
  rw [hg] at hd
  exact hd

/-- R183, R188: a geometry entry as it is written is read back. -/
theorem parseGeometry_geometryBytes (o : Option Geometry) (h : ∀ g, o = some g → g.legal = true) :
    parseGeometry (geometryBytes o) = some o := by
  match o, h with
  | none, _ => rfl
  | some g, h =>
    obtain ⟨hone, hpages, htimeout, hshort⟩ := Geometry.legal_bounds (h g rfl)
    have hcount : fieldAt (geometryBytes (some g)) 2 2 = g.pageCount - 1 :=
      ofLeBytes_leBytes_of_lt 2 _ (by omega)
    have hcycle : (byteAt (geometryBytes (some g)) 5).toNat = g.cycleTimeout := by
      show (BitVec.ofNat 8 g.cycleTimeout).toNat = _
      rw [BitVec.toNat_ofNat, Nat.mod_eq_of_lt (by omega)]
    have hnonzero : byteAt (geometryBytes (some g)) 5 ≠ 0 := fun hz => by
      rw [hz] at hcycle
      exact absurd hcycle.symm (by simpa using Nat.one_le_iff_ne_zero.1 htimeout)
    have hsize : PageSize.ofCode (byteAt (geometryBytes (some g)) 1).toNat = some g.pageSize := by
      show PageSize.ofCode (BitVec.ofNat 8 g.pageSize.code).toNat = _
      cases g.pageSize <;> rfl
    have hwidth : AddressWidth.ofCode (byteAt (geometryBytes (some g)) 4).toNat = some g.width := by
      show AddressWidth.ofCode (BitVec.ofNat 8 g.width.bytes).toNat = _
      cases g.width <;> rfl
    have hpresent : (byteAt (geometryBytes (some g)) 0).toNat = 1 := rfl
    simp only [parseGeometry, hpresent, hsize, hwidth, if_neg hnonzero, hcount, hcycle, Nat.sub_add_cancel hone]

/-- R183, R188: a zone entry as it is written is read back. -/
theorem parseZone_zoneBytes (o : Option Zone) (h : ∀ z, o = some z → z.first ≤ z.last ∧ z.last < 65536) :
    parseZone (zoneBytes o) = some o := by
  match o, h with
  | none, _ => rfl
  | some z, h =>
    obtain ⟨hordered, hlast⟩ := h z rfl
    have hfirst : fieldAt (zoneBytes (some z)) 2 2 = z.first := ofLeBytes_leBytes_of_lt 2 _ (by omega)
    have hend : fieldAt (zoneBytes (some z)) 4 2 = z.last := ofLeBytes_leBytes_of_lt 2 _ (by omega)
    have hdevice : (byteAt (zoneBytes (some z)) 1).toNat = z.device.val := by
      show (BitVec.ofNat 8 z.device.val).toNat = _
      rw [BitVec.toNat_ofNat, Nat.mod_eq_of_lt (by omega)]
    have hmode : ZoneMode.ofCode (byteAt (zoneBytes (some z)) 6).toNat = some z.mode := by
      show ZoneMode.ofCode (BitVec.ofNat 8 z.mode.code).toNat = _
      cases z.mode <;> rfl
    have hvalid : (byteAt (zoneBytes (some z)) 0).getLsbD 0 = true := by
      show (1 : Byte).getLsbD 0 = true
      decide
    simp only [parseZone, hvalid, Bool.true_eq_false, if_false, hmode, hdevice, z.device.isLt, hfirst, hend, hordered, dif_pos,
      if_true, Fin.eta]

/-- R145: the record without its CRC. -/
def profileBody (generation : BitVec 32) (gs : Vector (Option Geometry) 8) (zs : Vector (Option Zone) 16) : List Byte :=
  profileHead ++ List.replicate 3 0 ++ leBytes 4 generation.toNat
    ++ gs.toList.flatMap geometryBytes ++ (zs.toList.map (zoneToStore gs)).flatMap zoneBytes ++ List.replicate 50 0

theorem profileBytes_eq (generation : BitVec 32) (gs : Vector (Option Geometry) 8) (zs : Vector (Option Zone) 16) :
    profileBytes generation gs zs = profileBody generation gs zs ++ beBytes 2 (crc16 (profileBody generation gs zs)).toNat := rfl

theorem profileBody_length (generation : BitVec 32) (gs : Vector (Option Geometry) 8) (zs : Vector (Option Zone) 16) :
    (profileBody generation gs zs).length = 254 := by
  simp [profileBody, profileHead, flatMap_length _ _ geometryBytes_length, flatMap_length _ _ zoneBytes_length]

/-- R188: the geometry entries from offset 12. -/
theorem profileBytes_geometry (generation : BitVec 32) (gs : Vector (Option Geometry) 8) (zs : Vector (Option Zone) 16) (d : Nat)
    (hd : d < 8) : copyGeometryBytes (profileBytes generation gs zs) d = geometryBytes gs[d] := by
  have hne : geometryBytes gs[d] ≠ [] := fun h => absurd (geometryBytes_length gs[d]) (by simp [h])
  have hentry := standsAt_flatMap geometryBytes 8 geometryBytes_length gs.toList d (by simpa using hd)
  rw [Vector.getElem_toList] at hentry
  have hstands := ((((hentry.append_right (profileHead ++ List.replicate 3 0 ++ leBytes 4 generation.toNat) 12
    (by simp [profileHead])).append_left hne ((zs.toList.map (zoneToStore gs)).flatMap zoneBytes)).append_left hne
    (List.replicate 50 0)).append_left hne (beBytes 2 (crc16 (profileBody generation gs zs)).toNat)).take
  rw [geometryBytes_length] at hstands
  exact hstands

/-- R188: the zone entries from offset 76. -/
theorem profileBytes_zone (generation : BitVec 32) (gs : Vector (Option Geometry) 8) (zs : Vector (Option Zone) 16) (i : Nat)
    (hi : i < 16) : copyZoneBytes (profileBytes generation gs zs) i = zoneBytes (zoneToStore gs zs[i]) := by
  have hne : zoneBytes (zoneToStore gs zs[i]) ≠ [] := fun h => absurd (zoneBytes_length (zoneToStore gs zs[i])) (by simp [h])
  have hentry := standsAt_flatMap zoneBytes 8 zoneBytes_length (zs.toList.map (zoneToStore gs)) i (by simpa using hi)
  rw [List.getElem_map, Vector.getElem_toList] at hentry
  have hstands := (((hentry.append_right (profileHead ++ List.replicate 3 0 ++ leBytes 4 generation.toNat
    ++ gs.toList.flatMap geometryBytes) 76 (by simp [profileHead, flatMap_length _ _ geometryBytes_length])).append_left hne
    (List.replicate 50 0)).append_left hne (beBytes 2 (crc16 (profileBody generation gs zs)).toNat)).take
  rw [zoneBytes_length] at hstands
  exact hstands

/-- R154: a zone entry as it is stored lies inside the pages its device has. -/
theorem zoneToStore_some {gs : Vector (Option Geometry) 8} {o : Option Zone} {z : Zone} (h : zoneToStore gs o = some z) :
    ∃ y g, o = some y ∧ gs[z.device] = some g ∧ y.first < g.pageCount
      ∧ z = { y with last := min y.last (g.pageCount - 1) } := by
  cases o with
  | none => cases h
  | some y =>
    rw [zoneToStore] at h
    split at h
    · cases h
    · next g hg =>
      split at h
      · next hlt =>
        cases h
        exact ⟨y, g, rfl, hg, hlt, rfl⟩
      · cases h

/-- Settles O60: the record's entries are read back one by one, and each condition of R146 is met. -/
theorem storedProfileIsValidCopy : Obligations.StoredProfileIsValidCopy := by
  intro generation gs zs w hgeneration hlegal hwidth hordered
  have hlength : (profileBytes generation gs zs).length = 256 := by
    rw [profileBytes_eq, List.length_append, profileBody_length]
    simp [beBytes]
  have hgeometries : (Vector.ofFn fun d : Fin 8 => parseGeometry (copyGeometryBytes (profileBytes generation gs zs) d))
      = gs.map some := by
    ext1 d hd
    rw [Vector.getElem_ofFn, Vector.getElem_map, profileBytes_geometry _ _ _ d hd]
    exact parseGeometry_geometryBytes _ fun g hg => geometryLegal_at hlegal ⟨d, hd⟩ g hg
  have hstored (i : Nat) (hi : i < 16) (z : Zone) (hz : zoneToStore gs zs[i] = some z) :
      ∃ g, gs[z.device] = some g ∧ z.first ≤ z.last ∧ z.last < g.pageCount := by
    obtain ⟨y, g, hy, hg, hlt, rfl⟩ := zoneToStore_some hz
    have hle := hordered ⟨i, hi⟩ y hy
    exact ⟨g, hg, le_min hle (Nat.le_sub_one_of_lt hlt), by dsimp only; omega⟩
  have hzones : (Vector.ofFn fun i : Fin 16 => parseZone (copyZoneBytes (profileBytes generation gs zs) i))
      = (zs.map (zoneToStore gs)).map some := by
    ext1 i hi
    rw [Vector.getElem_ofFn, Vector.getElem_map, Vector.getElem_map, profileBytes_zone _ _ _ i hi]
    refine parseZone_zoneBytes _ fun z hz => ?_
    obtain ⟨g, hg, hle, hlt⟩ := hstored i hi z hz
    have := (Geometry.legal_bounds (geometryLegal_at hlegal _ g hg)).2.1
    exact ⟨hle, by omega⟩
  have hgetGeometry : (gs.map some).map (·.getD none) = gs := by ext1 d hd; simp
  have hgetZones : ((zs.map (zoneToStore gs)).map some).map (·.getD none) = zs.map (zoneToStore gs) := by ext1 i hi; simp
  have hfits : (zs.map (zoneToStore gs)).toList.all (zoneFits gs) = true := by
    rw [List.all_eq_true]
    intro o ho
    obtain ⟨i, hi, rfl⟩ := List.getElem_of_mem ho
    simp only [Vector.length_toList] at hi
    rw [Vector.getElem_toList, Vector.getElem_map]
    cases hz : zoneToStore gs zs[i] with
    | none => rfl
    | some z =>
      obtain ⟨g, hg, -, hlt⟩ := hstored i hi z hz
      simp [zoneFits, hg, hlt]
  have hfield : fieldAt (profileBytes generation gs zs) 8 4 = generation.toNat := ofLeBytes_leBytes_of_lt 4 _ generation.isLt
  have htake : (profileBytes generation gs zs).take 254 = profileBody generation gs zs := by
    rw [profileBytes_eq, List.take_left' (profileBody_length _ _ _)]
  have hcrc : BitVec.ofNat 16 ((byteAt (profileBytes generation gs zs) 254).toNat * 256
      + (byteAt (profileBytes generation gs zs) 255).toNat) = crc16 (profileBody generation gs zs) := by
    have hstands := (standsAt_zero (beBytes 2 (crc16 (profileBody generation gs zs)).toNat)).append_right
      (profileBody generation gs zs) 254 (profileBody_length _ _ _)
    rw [← profileBytes_eq] at hstands
    have hhigh := hstands.byteAt 0 (by simp [beBytes])
    have hlow := hstands.byteAt 1 (by simp [beBytes])
    rw [hhigh, hlow]
    show BitVec.ofNat 16 ((BitVec.ofNat 8 ((crc16 (profileBody generation gs zs)).toNat / 256 ^ 1)).toNat * 256
      + (BitVec.ofNat 8 ((crc16 (profileBody generation gs zs)).toNat / 256 ^ 0)).toNat) = _
    generalize crc16 (profileBody generation gs zs) = c
    bv_omega
  refine ⟨hlength, ?_⟩
  unfold judgeCopy
  simp only [hgeometries, hzones, hgetGeometry, hgetZones, hfield, htake, hcrc]
  rw [if_pos]
  · simp
  · refine ⟨hlength, rfl, trivial, fun hz => hgeneration (BitVec.eq_of_toNat_eq hz), ?_, ?_, hlegal, hwidth, hfits⟩
    · simp
    · simp

end Sys2Proof.Machine
end

section
/-! PROOFS. Order slots, setup blocks and register writes, word by word (R161, R162, R183, R185, R186): the obligation
SlotAndSetupRoundTrip. -/

namespace Sys2Proof.Machine

/-! ### Fields of a word -/

theorem toNat_append_eq {n m : Nat} (x : BitVec n) (y : BitVec m) : (x ++ y).toNat = x.toNat * 2 ^ m + y.toNat := by
  rw [BitVec.toNat_append, ← Nat.shiftLeft_add_eq_or_of_lt y.isLt, Nat.shiftLeft_eq]

theorem toNat_extractLsb_eq {n : Nat} (x : BitVec n) (i k : Nat) : (x.extractLsb' i k).toNat = x.toNat / 2 ^ i % 2 ^ k := by
  rw [BitVec.extractLsb'_toNat, Nat.shiftRight_eq_div_pow]

/-- A field inside one of the words, as bytes. -/
theorem fieldAt_word (l : List Word) (k i n : Nat) (hk : k < l.length) (h : i + n ≤ 4) :
    fieldAt (bytesOfWords l) (4 * k + i) n = l[k].toNat / 256 ^ i % 256 ^ n := by
  have hstands := standsAt_flatMap (fun w : Word => leBytes 4 w.toNat) 4 (fun _ => leBytes_length _ _) l k hk
  rw [← fieldAt_leBytes 4 _ i n h]
  exact hstands.fieldAt i n (by rw [leBytes_length]; exact h)

theorem byteAt_word (l : List Word) (k i : Nat) (hk : k < l.length) (h : i < 4) :
    byteAt (bytesOfWords l) (4 * k + i) = BitVec.ofNat 8 (l[k].toNat / 256 ^ i) := by
  have hstands := standsAt_flatMap (fun w : Word => leBytes 4 w.toNat) 4 (fun _ => leBytes_length _ _) l k hk
  rw [← byteAt_leBytes 4 _ i h]
  exact hstands.byteAt i (by rw [leBytes_length]; exact h)

theorem bytesOfWords_length (l : List Word) : (bytesOfWords l).length = l.length * 4 :=
  flatMap_length _ _ (fun _ => leBytes_length _ _) l

/-! ### Words put together and cut -/

theorem extract_append_low {n m : Nat} (x : BitVec n) (y : BitVec m) : (x ++ y).extractLsb' 0 m = y := by
  ext i hi
  simp [BitVec.getLsbD_append, hi]

theorem extract_append_high {n m k : Nat} (x : BitVec n) (y : BitVec m) (h : k = m) : (x ++ y).extractLsb' k n = x := by
  subst h
  ext i hi
  simp [BitVec.getLsbD_append, hi]

theorem extract_append_mid {n m k : Nat} (x : BitVec n) (y : BitVec m) (z : BitVec k) : (x ++ y ++ z).extractLsb' k m = y := by
  ext i hi
  simp [BitVec.getLsbD_append, hi]

/-- A word is its fields put together again. -/
theorem append_extract {n m k : Nat} (v : BitVec (n + m)) (h : k = m) : v.extractLsb' k n ++ v.extractLsb' 0 m = v := by
  subst h
  ext i hi
  simp

theorem append_extract_mid {n m k : Nat} (v : BitVec (n + (m + k))) :
    v.extractLsb' (m + k) n ++ (v.extractLsb' k m ++ v.extractLsb' 0 k) = v := by
  have hlow : v.extractLsb' k m ++ v.extractLsb' 0 k = v.extractLsb' 0 (m + k) := by
    ext i hi
    by_cases h : i < k
    · simp [BitVec.getElem_append, h]
    · simp [BitVec.getElem_append, h, Nat.add_sub_cancel' (Nat.le_of_not_lt h)]
  rw [hlow, append_extract v rfl]

/-! ### Order slots -/

theorem kindByte_toWords (code : Byte) (r : OrderRecord) : kindByte (r.toWords code) = code :=
  extract_append_mid r.flags code r.tag

theorem OrderRecord.eq_of_fields {x y : OrderRecord} (htag : x.tag = y.tag) (hflags : x.flags = y.flags) (hdevice : x.device = y.device)
    (hselector : x.selector = y.selector) (hlength : x.lengthLess1 = y.lengthLess1) (haddress : x.address = y.address)
    (hbuffer : x.buffer = y.buffer) (hpayload : x.payload = y.payload) (hzero : x.mustBeZero = y.mustBeZero) : x = y := by
  obtain ⟨tag, flags, device, selector, length, address, buffer, payload, zero⟩ := x
  cases htag
  cases hflags
  cases hdevice
  cases hselector
  cases hlength
  cases haddress
  cases hbuffer
  cases hpayload
  cases hzero
  rfl

theorem ofWords_toWords (code : Byte) (r : OrderRecord) : OrderRecord.ofWords (r.toWords code) = r := by
  apply OrderRecord.eq_of_fields
  case htag => exact extract_append_low (r.flags ++ code) r.tag
  case hflags =>
    show (r.flags ++ code ++ r.tag).extractLsb' 24 8 = r.flags
    rw [BitVec.append_assoc]
    exact extract_append_high r.flags (code ++ r.tag) rfl
  case hdevice => exact extract_append_low (r.lengthLess1 ++ r.selector) r.device
  case hselector => exact extract_append_mid r.lengthLess1 r.selector r.device
  case hlength =>
    show (r.lengthLess1 ++ r.selector ++ r.device).extractLsb' 16 16 = r.lengthLess1
    rw [BitVec.append_assoc]
    exact extract_append_high r.lengthLess1 (r.selector ++ r.device) rfl
  case haddress => rfl
  case hbuffer => rfl
  case hpayload => exact append_extract (n := 32) (m := 32) r.payload rfl
  case hzero => exact append_extract (n := 32) (m := 32) r.mustBeZero rfl

theorem vector_eight_ext {α : Type} {v w : Vector α 8} (h0 : v[0] = w[0]) (h1 : v[1] = w[1]) (h2 : v[2] = w[2]) (h3 : v[3] = w[3])
    (h4 : v[4] = w[4]) (h5 : v[5] = w[5]) (h6 : v[6] = w[6]) (h7 : v[7] = w[7]) : v = w := by
  ext1 i hi
  match i, hi with
  | 0, _ => exact h0
  | 1, _ => exact h1
  | 2, _ => exact h2
  | 3, _ => exact h3
  | 4, _ => exact h4
  | 5, _ => exact h5
  | 6, _ => exact h6
  | 7, _ => exact h7

theorem toWords_ofWords (w : Vector Word 8) : (OrderRecord.ofWords w).toWords (kindByte w) = w := by
  apply vector_eight_ext
  · show w[0].extractLsb' 24 8 ++ w[0].extractLsb' 16 8 ++ w[0].extractLsb' 0 16 = w[0]
    rw [BitVec.append_assoc]
    exact append_extract_mid (n := 8) (m := 8) (k := 16) w[0]
  · show w[1].extractLsb' 16 16 ++ w[1].extractLsb' 8 8 ++ w[1].extractLsb' 0 8 = w[1]
    rw [BitVec.append_assoc]
    exact append_extract_mid (n := 16) (m := 8) (k := 8) w[1]
  · rfl
  · rfl
  · exact extract_append_low w[5] w[4]
  · exact extract_append_high w[5] w[4] rfl
  · exact extract_append_low w[7] w[6]
  · exact extract_append_high w[7] w[6] rfl

/-- R76, R183: the command of a record has that record and its kind byte. -/
theorem slot_commandOfRecord (code : Byte) (r : OrderRecord) :
    (commandOfRecord code r).slot? = some (code, r) ∧ (commandOfRecord code r).wellFormed = true := by
  rcases kindCode_cases code with hunknown | rfl | rfl | rfl | rfl | rfl | rfl | rfl | rfl | rfl | rfl
  case inl =>
    rw [commandOfRecord, Kind.ofCode_unknown code hunknown]
    refine ⟨rfl, ?_⟩
    simp only [Instr.wellFormed, kindCodeUnknown, Bool.or_eq_true, decide_eq_true_eq]
    bv_omega
  all_goals exact ⟨rfl, rfl⟩

theorem commandOfRecord_slot (c : Instr) (code : Byte) (r : OrderRecord) (hwf : c.wellFormed = true)
    (hslot : c.slot? = some (code, r)) : commandOfRecord code r = c := by
  cases c with
  | unknownKind code' r' =>
    cases hslot
    have hcode : code = 0 ∨ 11 ≤ code.toNat := by simpa [Instr.wellFormed, kindCodeUnknown] using hwf
    rw [commandOfRecord, Kind.ofCode_unknown code (by bv_omega)]
  | read | write | fill | flush | cancel | setZone | setGeometry | storeProfile | revive | report =>
    cases hslot
    rfl
  | _ => cases hslot

theorem commandOfRecord_eq (code : Byte) (r : OrderRecord) :
    commandOfRecord code r = (match code.toNat with
      | 1 => .read r | 2 => .write r | 3 => .fill r | 4 => .flush r | 5 => .cancel r | 6 => .setZone r | 7 => .setGeometry r
      | 8 => .storeProfile r | 9 => .revive r | 10 => .report r | _ => .unknownKind code r) := by
  rcases kindCode_cases code with hunknown | rfl | rfl | rfl | rfl | rfl | rfl | rfl | rfl | rfl | rfl
  case inl =>
    have hcommand : commandOfRecord code r = .unknownKind code r := by rw [commandOfRecord, Kind.ofCode_unknown code hunknown]
    rw [hcommand]
    split
    case h_11 => rfl
    all_goals omega
  all_goals rfl

/-! ### The setup block -/

theorem SetupBlock.eq_of_fields {x y : SetupBlock} (hnbase : x.normalBase = y.normalBase) (hubase : x.urgentBase = y.urgentBase)
    (hcbase : x.completionBase = y.completionBase) (hnsize : x.normalSize = y.normalSize) (husize : x.urgentSize = y.urgentSize)
    (hcsize : x.completionSize = y.completionSize) (hthreshold : x.threshold = y.threshold) (hlinger : x.linger = y.linger)
    (hreserved : x.reserved = y.reserved) : x = y := by
  obtain ⟨nbase, ubase, cbase, nsize, usize, csize, threshold, linger, reserved⟩ := x
  cases hnbase
  cases hubase
  cases hcbase
  cases hnsize
  cases husize
  cases hcsize
  cases hthreshold
  cases hlinger
  cases hreserved
  rfl

theorem setup_ofWords_toWords (b : SetupBlock) : SetupBlock.ofWords b.toWords = b := by
  apply SetupBlock.eq_of_fields
  case hnbase => rfl
  case hubase => rfl
  case hcbase => rfl
  case hnsize => exact extract_append_low b.urgentSize b.normalSize
  case husize => exact extract_append_high b.urgentSize b.normalSize rfl
  case hcsize => exact extract_append_low (b.linger ++ b.threshold) b.completionSize
  case hthreshold => exact extract_append_mid b.linger b.threshold b.completionSize
  case hlinger =>
    show (b.linger ++ b.threshold ++ b.completionSize).extractLsb' 24 8 = b.linger
    rw [BitVec.append_assoc]
    exact extract_append_high b.linger (b.threshold ++ b.completionSize) rfl
  case hreserved =>
    show b.reserved.extractLsb' 64 32 ++ b.reserved.extractLsb' 32 32 ++ b.reserved.extractLsb' 0 32 = b.reserved
    rw [BitVec.append_assoc]
    exact append_extract_mid (n := 32) (m := 32) (k := 32) b.reserved

theorem setup_toWords_ofWords (w : Vector Word 8) : (SetupBlock.ofWords w).toWords = w := by
  apply vector_eight_ext
  · rfl
  · rfl
  · rfl
  · exact append_extract (n := 16) (m := 16) w[3] rfl
  · show w[4].extractLsb' 24 8 ++ w[4].extractLsb' 16 8 ++ w[4].extractLsb' 0 16 = w[4]
    rw [BitVec.append_assoc]
    exact append_extract_mid (n := 8) (m := 8) (k := 16) w[4]
  · exact extract_append_low (w[7] ++ w[6]) w[5]
  · exact extract_append_mid w[7] w[6] w[5]
  · show (w[7] ++ w[6] ++ w[5]).extractLsb' 64 32 = w[7]
    rw [BitVec.append_assoc]
    exact extract_append_high w[7] (w[6] ++ w[5]) rfl

/-! ### Fields of a slot and of a setup block as bytes -/

section
variable (w : Vector Word 8)

/-- A field inside word `k` of the eight. -/
theorem fieldAt_slot (k i n : Nat) (hk : k < 8) (h : i + n ≤ 4) :
    fieldAt (bytesOfWords w.toList) (4 * k + i) n = (w[k].extractLsb' (8 * i) (8 * n)).toNat := by
  rw [fieldAt_word _ k i n (by simpa using hk) h, Vector.getElem_toList, toNat_extractLsb_eq, Nat.pow_mul, Nat.pow_mul]

theorem byteAt_slot (k i : Nat) (hk : k < 8) (h : i < 4) :
    byteAt (bytesOfWords w.toList) (4 * k + i) = w[k].extractLsb' (8 * i) 8 := by
  rw [byteAt_word _ k i (by simpa using hk) h, Vector.getElem_toList]
  apply BitVec.eq_of_toNat_eq
  rw [BitVec.toNat_ofNat, toNat_extractLsb_eq, Nat.pow_mul]

/-- A whole word. -/
theorem fieldAt_wholeWord (k : Nat) (hk : k < 8) : fieldAt (bytesOfWords w.toList) (4 * k) 4 = w[k].toNat := by
  have h := fieldAt_slot w k 0 4 hk (Nat.le_refl 4)
  rw [Nat.add_zero] at h
  rw [h, toNat_extractLsb_eq]
  exact (congrArg (· % 2 ^ 32) (Nat.div_one _)).trans (Nat.mod_eq_of_lt w[k].isLt)

/-- Two words that follow one another. -/
theorem fieldAt_twoWords (k : Nat) (hk : k + 1 < 8) :
    fieldAt (bytesOfWords w.toList) (4 * k) 8 = (w[k + 1] ++ w[k]).toNat := by
  have hlength : (bytesOfWords w.toList).length = 32 := by rw [bytesOfWords_length]; simp
  rw [fieldAt_add _ (4 * k) 4 4 (by omega), fieldAt_wholeWord w k (by omega),
    show 4 * k + 4 = 4 * (k + 1) by omega, fieldAt_wholeWord w (k + 1) hk, toNat_append_eq]
  omega

/-- R183: the fields of an order slot at their offsets. -/
theorem orderFields_at : ∀ r, r = OrderRecord.ofWords w → ∀ bytes, bytes = bytesOfWords w.toList →
    r.tag.toNat = fieldAt bytes 0 2 ∧ kindByte w = byteAt bytes 2 ∧ r.flags = byteAt bytes 3 ∧ r.device = byteAt bytes 4
      ∧ r.selector = byteAt bytes 5 ∧ r.lengthLess1.toNat = fieldAt bytes 6 2 ∧ r.address.toNat = fieldAt bytes 8 4
      ∧ r.buffer.toNat = fieldAt bytes 12 4 ∧ r.payload.toNat = fieldAt bytes 16 8 ∧ r.mustBeZero.toNat = fieldAt bytes 24 8 := by
  rintro _ rfl _ rfl
  exact ⟨(fieldAt_slot w 0 0 2 (by omega) (by omega)).symm, (byteAt_slot w 0 2 (by omega) (by omega)).symm,
    (byteAt_slot w 0 3 (by omega) (by omega)).symm, (byteAt_slot w 1 0 (by omega) (by omega)).symm,
    (byteAt_slot w 1 1 (by omega) (by omega)).symm, (fieldAt_slot w 1 2 2 (by omega) (by omega)).symm,
    (fieldAt_wholeWord w 2 (by omega)).symm, (fieldAt_wholeWord w 3 (by omega)).symm, (fieldAt_twoWords w 4 (by omega)).symm,
    (fieldAt_twoWords w 6 (by omega)).symm⟩

/-- R185: the fields of a setup block at their offsets. -/
theorem setupFields_at : ∀ b, b = SetupBlock.ofWords w → ∀ bytes, bytes = bytesOfWords w.toList →
    b.normalBase.toNat = fieldAt bytes 0 4 ∧ b.urgentBase.toNat = fieldAt bytes 4 4 ∧ b.completionBase.toNat = fieldAt bytes 8 4
      ∧ b.normalSize.toNat = fieldAt bytes 12 2 ∧ b.urgentSize.toNat = fieldAt bytes 14 2 ∧ b.completionSize.toNat = fieldAt bytes 16 2
      ∧ b.threshold = byteAt bytes 18 ∧ b.linger = byteAt bytes 19 ∧ b.reserved.toNat = fieldAt bytes 20 12 := by
  rintro _ rfl _ rfl
  have hreserved : (w[7] ++ w[6] ++ w[5]).toNat = fieldAt (bytesOfWords w.toList) 20 12 := by
    have hlength : (bytesOfWords w.toList).length = 32 := by rw [bytesOfWords_length]; simp
    have hlow : fieldAt (bytesOfWords w.toList) 20 4 = w[5].toNat := fieldAt_wholeWord w 5 (by omega)
    have hhigh : fieldAt (bytesOfWords w.toList) 24 8 = (w[7] ++ w[6]).toNat := fieldAt_twoWords w 6 (by omega)
    rw [fieldAt_add _ 20 4 8 (by omega), hlow, hhigh, toNat_append_eq]
    omega
  exact ⟨(fieldAt_wholeWord w 0 (by omega)).symm, (fieldAt_wholeWord w 1 (by omega)).symm, (fieldAt_wholeWord w 2 (by omega)).symm,
    (fieldAt_slot w 3 0 2 (by omega) (by omega)).symm, (fieldAt_slot w 3 2 2 (by omega) (by omega)).symm,
    (fieldAt_slot w 4 0 2 (by omega) (by omega)).symm, (byteAt_slot w 4 2 (by omega) (by omega)).symm,
    (byteAt_slot w 4 3 (by omega) (by omega)).symm, hreserved⟩

end

/-- R161: the writes of the window that are ignored. -/
theorem registerWrite_ignored (bw : Bool) (r : Register) (v : Word) (be : BitVec 4) (h : r = .ident ∨ r = .state ∨ be ≠ 0b1111) :
    registerWrite bw r v be = .registerWriteIgnored r v be := by
  unfold registerWrite
  split
  · rfl
  · next hbe =>
    rcases h with rfl | rfl | h
    · rfl
    · rfl
    · exact absurd h hbe

/-- Settles O59: the round trips word by word, the fields at their offsets, and the writes of the window. -/
theorem slotAndSetupRoundTrip : Obligations.SlotAndSetupRoundTrip := by
  refine ⟨fun c w hwf henc => ?_, fun w => ?_, setup_ofWords_toWords, setup_toWords_ofWords, fun w bytes r b hbytes hr hb => ?_,
    fun bw v => rfl, fun bw v => ⟨rfl, rfl, rfl, rfl, rfl⟩, registerWrite_ignored, by decide⟩
  · obtain ⟨⟨code, r⟩, hslot, rfl⟩ := Option.map_eq_some_iff.1 henc
    show commandOfRecord (kindByte (r.toWords code)) (OrderRecord.ofWords (r.toWords code)) = c
    rw [kindByte_toWords, ofWords_toWords]
    exact commandOfRecord_slot c code r hwf hslot
  · obtain ⟨hslot, hwf⟩ := slot_commandOfRecord (kindByte w) (OrderRecord.ofWords w)
    refine ⟨?_, hwf⟩
    rw [encodeSlot, decodeSlot, hslot]
    exact congrArg some (toWords_ofWords w)
  · have hfields := orderFields_at w r hr bytes hbytes
    obtain ⟨htag, hkind, hrest⟩ := hfields
    refine ⟨by rw [hbytes, bytesOfWords_length]; simp, ⟨htag, hkind, hrest⟩, ?_, setupFields_at w b hb bytes hbytes⟩
    rw [decodeSlot, ← hr, hkind]
    exact commandOfRecord_eq _ _

end Sys2Proof.Machine
end

section
/-! PROOFS. What acceptance hands on (R76, R86, R88, R89, R187): the obligations AcceptedOrdersHandedOn, CancelRemovesWaiting,
ReviveByDeviceState and ReportSnapshot. -/

namespace Sys2Proof.Machine

/-! ### An order is accepted -/

/-- R72, R75: an order that is not refused is numbered and handed on. -/
theorem State.accept_numbered {s : State} {x : Transfer} {ring : RingId} {slot : Nat} {cfg : RingConfig} {e : EntryId} {code : Byte}
    {r : OrderRecord} (handOn : EntryId → State → State) (hrefused : ¬ Refused code r) (hlive : s.Live)
    (hbus : s.host.engine = some x) (hjob : x.job = .orderFetch ring slot) (hcfg : s.fetch.config = some cfg)
    (hfree : s.entry? e = none) (hlower : ∀ e', e' < e → s.entry? e' ≠ none) :
    s.accept (Kind.ofCode code) r handOn
      = .next (handOn e ((s.newEvent.fetched cfg ring).numbered e ring slot (Kind.ofCode code) r)).conclude := by
  rw [s.accept_answers x ring slot _ r handOn hlive hbus hjob, s.newEvent.acceptRecord_eq ring slot _ r handOn cfg e hcfg hfree hlower,
    if_pos ((acceptable_iff_not_refused code r).2 hrefused)]

theorem State.entry_numbered (s : State) (cfg : RingConfig) (ring : RingId) (slot : Nat) (k : Kind) (r : OrderRecord)
    (e e' : EntryId) : ((s.newEvent.fetched cfg ring).numbered e ring slot k r).entry? e'
      = if e' = e then some ⟨ring, slot, k, r, some s.orders.sequence, .waiting, 0, 0, none, [], none, none⟩ else s.entry? e' :=
  (s.newEvent.fetched cfg ring).entry_putEntry e e' _

theorem exec_read_accepts {c : Instr} {code : Byte} {r : OrderRecord} (hslot : c.slot? = some (code, r)) (hc : c = .read r) (s : State) :
    exec c s = s.accept (Kind.ofCode code) r handToReader := by
  subst hc
  cases hslot
  rfl

theorem exec_gather_accepts {c : Instr} {code : Byte} {r : OrderRecord} (hslot : c.slot? = some (code, r)) (hc : c = .write r ∨ c = .fill r
    ∨ c = .flush r ∨ c = .setZone r ∨ c = .setGeometry r ∨ c = .storeProfile r) (s : State) :
    exec c s = s.accept (Kind.ofCode code) r handToGather := by
  rcases hc with rfl | rfl | rfl | rfl | rfl | rfl
  all_goals
    cases hslot
    rfl

/-- Settles O27: READs join the waiting set, the other six kinds the gather queue. -/
theorem acceptedOrdersHandedOn : Obligations.AcceptedOrdersHandedOn := by
  intro c code r s x ring slot cfg e hslot hrefused hlive hbus hjob hcfg hfree hlower hkinds
  have hentries := s.entry_numbered cfg ring slot (Kind.ofCode code) r e
  by_cases hc : c = .read r
  · have hexec := (exec_read_accepts hslot hc s).trans
      (s.accept_numbered handToReader hrefused hlive hbus hjob hcfg hfree hlower)
    refine ⟨_, hexec, ?_, (hentries e).trans (if_pos rfl), fun e' hne => (hentries e').trans (if_neg hne)⟩
    rw [if_pos hc, if_pos hc]
    rfl
  · have hexec := (exec_gather_accepts hslot (hkinds.resolve_left hc) s).trans
      (s.accept_numbered handToGather hrefused hlive hbus hjob hcfg hfree hlower)
    refine ⟨_, hexec, ?_, (hentries e).trans (if_pos rfl), fun e' hne => (hentries e').trans (if_neg hne)⟩
    rw [if_neg hc, if_neg hc]
    rfl

/-! ### CANCEL -/

/-- R86: the orders that a CANCEL removes, one after another. -/
theorem State.cancelAll_eq (l : List EntryId) (s : State) (hgather : s.startedGather = []) (hread : s.startedRead = []) :
    (∃ entries, l.foldl State.cancelOne s = { s with
      orders := ⟨entries, s.orders.sequence, s.orders.done ++ l⟩
      gather := { s.gather with queue := s.gather.queue.filter (· ∉ l) }
      reader := { s.reader with waiting := s.reader.waiting.filter (· ∉ l) } })
    ∧ ∀ e, (l.foldl State.cancelOne s).entry? e = if e ∈ l
        then (s.entry? e).map fun y => { y with state := .done, result := some ⟨.cancelled, 0, none⟩ } else s.entry? e := by
  induction l generalizing s with
  | nil => exact ⟨⟨s.orders.entries, by simp⟩, fun e => by simp⟩
  | cons a l ih =>
    have hone : s.cancelOne a = { s with
        orders := ⟨(s.cancelOne a).orders.entries, s.orders.sequence, s.orders.done ++ [a]⟩
        gather := { s.gather with queue := s.gather.queue.filter (· ≠ a) }
        reader := { s.reader with waiting := s.reader.waiting.filter (· ≠ a) } } := by
      have hdone : (s.cancelOne a).orders.done = s.orders.done ++ [a] := by
        rw [State.cancelOne, State.goDone_done]
        simp [State.joinNow, hgather, hread]
      rw [← hdone, State.cancelOne, State.goDone_frame]
    have hentry (e : EntryId) : (s.cancelOne a).entry? e = if e = a
        then (s.entry? a).map (fun y => { y with state := .done, result := some ⟨.cancelled, 0, none⟩ }) else s.entry? e :=
      State.entry_goDone _ a e (.plain .cancelled 0)
    obtain ⟨⟨entries, hframe⟩, hrest⟩ := ih (s.cancelOne a) (by rw [hone]; exact hgather) (by rw [hone]; exact hread)
    refine ⟨⟨entries, ?_⟩, fun e => ?_⟩
    · have hfilter (q : List EntryId) : (q.filter (· ≠ a)).filter (· ∉ l) = q.filter (· ∉ a :: l) := by
        rw [List.filter_filter]
        exact List.filter_congr fun x _ => by simp [Bool.and_comm]
      rw [List.foldl_cons, hframe, hone]
      simp only [hfilter, List.append_assoc, List.singleton_append]
    · rw [List.foldl_cons, hrest, hentry]
      by_cases he : e = a
      · subst he
        by_cases hmem : e ∈ l
        · simp [hmem, Option.map_map, Function.comp_def]
        · simp [hmem]
      · simp [he]

theorem State.orderAge_of_kept {s u : State} (h : u.kept = s.kept) (e : EntryId) : u.orderAge e = s.orderAge e := by
  have hsequence : u.orders.sequence = s.orders.sequence := congrArg Kept.sequence h
  have hid := State.entry_identity_of_kept h e
  unfold State.orderAge
  rw [hsequence]
  have hnumber : (u.entry? e).bind (·.sequence) = (s.entry? e).bind (·.sequence) := by
    cases hs : s.entry? e with
    | none =>
      rw [hs, Option.map_none, Option.map_eq_none_iff] at hid
      rw [hid]
    | some x =>
      rw [hs, Option.map_some, Option.map_eq_some_iff] at hid
      obtain ⟨y, hy, hident⟩ := hid
      rw [hy]
      exact congrArg Identity.sequence hident
  rw [hnumber]

/-- R86: the orders that a CANCEL names. -/
theorem State.mem_cancelTargets (s : State) (ring : RingId) (tag : BitVec 16) (e : EntryId) :
    e ∈ s.cancelTargets ring tag ↔ ∃ y, s.entry? e = some y ∧ y.state = .waiting ∧ y.ring = ring ∧ y.record.tag = tag := by
  rw [State.cancelTargets, (oldestFirst_spec s.orderAge _).1.mem_iff, State.mem_entriesWhere]
  simp [and_assoc]

/-- Settles O28: the orders named, one after another, then the CANCEL. -/
theorem cancelRemovesWaiting : Obligations.CancelRemovesWaiting := by
  intro r s x ring slot cfg e hrefused hlive hbus hjob hcfg hfree hlower
  have hexec : exec (.cancel r) s = s.accept (Kind.ofCode 5) r (carryOutCancel r) := rfl
  have hanswer := hexec.trans (s.accept_numbered (carryOutCancel r) hrefused hlive hbus hjob hcfg hfree hlower)
  have hnumbered := s.entry_numbered cfg ring slot (Kind.ofCode 5) r e
  generalize hn : (s.newEvent.fetched cfg ring).numbered e ring slot (Kind.ofCode 5) r = n at hanswer hnumbered
  have hactive (e' : EntryId) : (n.mapEntry e fun x => { x with state := .active }).entry? e' = if e' = e
      then some ⟨ring, slot, .cancel, r, some s.orders.sequence, .active, 0, 0, none, [], none, none⟩ else s.entry? e' := by
    rw [State.entry_mapEntry, hnumbered, hnumbered, if_pos rfl]
    split
    · rfl
    · rfl
  generalize hl : (n.mapEntry e fun x => { x with state := .active }).cancelTargets r.cancelRing r.cancelTag = l
  have hcarry : carryOutCancel r e n
      = (l.foldl State.cancelOne (n.mapEntry e fun x => { x with state := .active })).goDone e (.plain .ok l.length) := by
    rw [← hl]
    rfl
  have hmem (e' : EntryId) : e' ∈ l ↔ ∃ y, s.entry? e' = some y ∧ y.state = .waiting
      ∧ y.ring = (if r.selector = 1 then .urgent else .normal) ∧ y.record.tag = r.payload.extractLsb' 0 16 := by
    rw [← hl, State.mem_cancelTargets, hactive]
    split
    · next he => simp [he, hfree]
    · rfl
  have hnot : e ∉ l := fun h => by simpa [hfree] using (hmem e).1 h
  obtain ⟨⟨entries, hframe⟩, hentries⟩ := State.cancelAll_eq l (n.mapEntry e fun x => { x with state := .active })
    (by rw [← hn]; rfl) (by rw [← hn]; rfl)
  have hlast (e' : EntryId) : (carryOutCancel r e n).entry? e' = _ := (congrArg (·.entry? e') hcarry).trans (State.entry_goDone _ e e' _)
  have hkept : (carryOutCancel r e n).kept = (n.mapEntry e fun x => { x with state := .active }).kept :=
    (handsOn_carryOutCancel r e n).kept.trans (State.handsOn_makeActive n e).kept.symm
  have hspec := oldestFirst_spec (n.mapEntry e fun x => { x with state := .active }).orderAge
    ((n.mapEntry e fun x => { x with state := .active }).entriesWhere
      fun x => x.state = .waiting && x.ring = r.cancelRing && x.record.tag = r.cancelTag)
  have hlist : oldestFirst _ _ = l := hl
  rw [hlist] at hspec
  refine ⟨_, l, hanswer, hmem, hspec.1.nodup_iff.2 (State.entriesWhere_nodup _ _), ?_, fun e' he' y hy => ?_, ?_,
    fun e' hother hne => ?_, ?_⟩
  · simpa only [State.orderAge_of_kept hkept] using hspec.2
  · have hne : e' ≠ e := fun h => hnot (h ▸ he')
    rw [hlast, if_neg hne, hentries, if_pos he', hactive, if_neg hne, hy]
    rfl
  · rw [hlast, if_pos rfl, hentries, if_neg hnot, hactive, if_pos rfl]
    rfl
  · rw [hlast, if_neg hne, hentries, if_neg hother, hactive, if_neg hne]
  · have hdone : (carryOutCancel r e n).orders.done = s.orders.done ++ l ++ [e] := by
      rw [hcarry, State.goDone_done, hframe, State.joinNow, ← hn]
      rfl
    rw [hcarry] at hdone ⊢
    rw [← hdone, State.goDone_frame, hframe, ← hn]
    rfl

/-! ### REVIVE -/

theorem handToRevive_eq (r : OrderRecord) (e : EntryId) (s : State) (h : (s.device r.position).state ≠ .offline) :
    handToRevive r e s = s.goDone e ⟨if (s.device r.position).state = .absent then .noDevice else .ok, 0, none⟩ := by
  unfold handToRevive
  cases hd : (s.device r.position).state with
  | absent => rfl
  | waking => rfl
  | idle => rfl
  | cycling => rfl
  | offline => exact absurd hd h

/-- Settles O29: an OFFLINE device is asked, any other ends the order at once. -/
theorem reviveByDeviceState : Obligations.ReviveByDeviceState := by
  intro r s x ring slot cfg e hrefused hlive hbus hjob hcfg hfree hlower
  have hexec : exec (.revive r) s = s.accept (Kind.ofCode 9) r (handToRevive r) := rfl
  have hanswer := hexec.trans (s.accept_numbered (handToRevive r) hrefused hlive hbus hjob hcfg hfree hlower)
  have hnumbered := s.entry_numbered cfg ring slot (Kind.ofCode 9) r e
  generalize hn : (s.newEvent.fetched cfg ring).numbered e ring slot (Kind.ofCode 9) r = n at hanswer hnumbered
  have hdevice : n.device r.position = s.device r.position := by rw [← hn]; rfl
  by_cases hoffline : (s.device r.position).state = .offline
  · have hcarry : handToRevive r e n
        = (n.mapEntry e fun x => { x with state := .active }).queueItem r.position (.ask (.revive e)) := by
      rw [handToRevive, hdevice, hoffline]
    obtain ⟨hframe, hchannel⟩ := (n.mapEntry e fun x => { x with state := .active }).queueItem_queues r.position (.ask (.revive e))
    have hentry (e' : EntryId) := (n.entry_mapEntry e e' fun x => { x with state := .active })
    rw [hcarry] at hanswer
    refine ⟨_, hanswer, fun e' hne => (hentry e').trans ?_, ?_, ?_⟩
    · rw [if_neg hne, hnumbered, if_neg hne]
    · rw [← hn]
      rfl
    · rw [if_pos hoffline]
      refine ⟨(hentry e).trans ?_, ?_, fun c => (hchannel c).trans ?_⟩
      · rw [if_pos rfl, hnumbered, if_pos rfl]
        rfl
      · rw [← hn]
        rfl
      · rw [← hn]
        rfl
  · have hcarry := handToRevive_eq r e n (hdevice ▸ hoffline)
    rw [hcarry, hdevice] at hanswer
    refine ⟨_, hanswer, fun e' hne => ?_, ?_, ?_⟩
    · rw [State.entry_goDone, if_neg hne, hnumbered, if_neg hne]
    · rw [State.goDone_frame, ← hn]
      rfl
    · rw [if_neg hoffline]
      refine ⟨?_, ?_, ?_⟩
      · rw [State.entry_goDone, if_pos rfl, hnumbered, if_pos rfl]
        rfl
      · rw [State.goDone_done, State.joinNow, ← hn]
        rfl
      · rw [State.goDone_frame, ← hn]
        rfl

/-! ### REPORT -/

theorem deviceReport_length (d : DeviceRecord) : d.reportBytes.length = 8 := rfl

theorem bufferReport_length (o : Option Buffer) : (bufferReportBytes o).length = 3 := by cases o <;> rfl

/-- R187: the part's own 16 bytes of the report record. -/
def State.reportHead (s : State) : List Byte :=
  [BitVec.ofNat 8 s.host.part.code, BitVec.ofNat 8 s.zones.guard.toNat, BitVec.ofNat 8 (copyCode s.loader.inUse),
    BitVec.ofNat 8 s.occupancy] ++ leBytes 4 s.loader.generation.toNat
    ++ [BitVec.ofNat 8 s.pool.failures.length, 0] ++ leBytes 2 s.pool.dropped.toNat ++ List.replicate 4 0

theorem State.reportBytes_eq (s : State) : s.reportBytes
    = s.reportHead ++ s.devices.toList.flatMap DeviceRecord.reportBytes ++ s.pool.buffers.toList.flatMap bufferReportBytes := rfl

theorem State.reportBytes_length (s : State) : s.reportBytes.length = 128 := by
  rw [s.reportBytes_eq, List.length_append, List.length_append, flatMap_length _ _ deviceReport_length,
    flatMap_length _ _ bufferReport_length]
  simp [State.reportHead]

/-- R187: the device positions from offset 16. -/
theorem State.reportBytes_device (s : State) (d : DevicePos) : StandsAt s.reportBytes (16 + 8 * d.val) (s.device d).reportBytes := by
  have hentry := standsAt_flatMap DeviceRecord.reportBytes 8 deviceReport_length s.devices.toList d.val (by simp)
  rw [Vector.getElem_toList] at hentry
  exact (hentry.append_right s.reportHead 16 rfl).append_left (by simp [DeviceRecord.reportBytes]) _

/-- R187: the buffer records from offset 80. -/
theorem State.reportBytes_buffer (s : State) (b : BufferId) : StandsAt s.reportBytes (80 + 3 * b.val) (bufferReportBytes (s.buffer? b)) := by
  have hentry := standsAt_flatMap bufferReportBytes 3 bufferReport_length s.pool.buffers.toList b.val (by simp)
  rw [Vector.getElem_toList] at hentry
  exact hentry.append_right (s.reportHead ++ s.devices.toList.flatMap DeviceRecord.reportBytes) 80 (by
    rw [List.length_append, flatMap_length _ _ deviceReport_length]
    simp [State.reportHead])

/-- R71: with one entry filled, one more is occupied. -/
theorem State.occupancy_filled {s u : State} {e : EntryId} (hfree : s.entry? e = none) (hfilled : (u.entry? e).isSome = true)
    (hothers : ∀ e', e' ≠ e → u.entry? e' = s.entry? e') : u.occupancy = s.occupancy + 1 := by
  rw [u.occupancy_eq, s.occupancy_eq]
  have hperm : ((List.finRange 32).filter fun e => (u.entry? e).isSome).Perm
      (e :: (List.finRange 32).filter fun e => (s.entry? e).isSome) := by
    refine (List.perm_ext_iff_of_nodup ((List.nodup_finRange 32).filter _)
      (List.nodup_cons.2 ⟨by simp [hfree], (List.nodup_finRange 32).filter _⟩)).2 fun e' => ?_
    by_cases he : e' = e
    · simp [he, hfilled]
    · simp [he, hothers e' he]
  exact hperm.length_eq

/-- R187: the part's own fields. -/
theorem State.reportBytes_head (s : State) :
    (byteAt s.reportBytes 0).toNat = s.host.part.code
    ∧ byteAt s.reportBytes 1 = (if s.zones.guard then 1 else 0)
    ∧ (byteAt s.reportBytes 2).toNat = copyCode s.loader.inUse
    ∧ (byteAt s.reportBytes 3).toNat = s.occupancy
    ∧ fieldAt s.reportBytes 4 4 = s.loader.generation.toNat
    ∧ (s.pool.failures.length ≤ 8 → (byteAt s.reportBytes 8).toNat = s.pool.failures.length)
    ∧ byteAt s.reportBytes 9 = 0 ∧ fieldAt s.reportBytes 10 2 = s.pool.dropped.toNat ∧ fieldAt s.reportBytes 12 4 = 0 := by
  have hpart : (BitVec.ofNat 8 s.host.part.code).toNat = s.host.part.code := by cases s.host.part <;> rfl
  have hguard : BitVec.ofNat 8 s.zones.guard.toNat = if s.zones.guard then 1 else 0 := by cases s.zones.guard <;> rfl
  have hcopy : (BitVec.ofNat 8 (copyCode s.loader.inUse)).toNat = copyCode s.loader.inUse := by
    rw [copyCode_eq]
    split <;> rfl
  have hoccupancy : (BitVec.ofNat 8 s.occupancy).toNat = s.occupancy := by
    have := s.occupancy_le
    rw [BitVec.toNat_ofNat]
    omega
  have hfailures (h : s.pool.failures.length ≤ 8) : (BitVec.ofNat 8 s.pool.failures.length).toNat = s.pool.failures.length := by
    rw [BitVec.toNat_ofNat]
    omega
  exact ⟨hpart, hguard, hcopy, hoccupancy, ofLeBytes_leBytes_of_lt 4 _ s.loader.generation.isLt, hfailures, rfl,
    ofLeBytes_leBytes_of_lt 2 _ s.pool.dropped.isLt, rfl⟩

/-- R187: the fields of a device position. -/
theorem DeviceRecord.reportBytes_fields (d : DeviceRecord) (bytes : List Byte) (o : Nat) (h : StandsAt bytes o d.reportBytes) :
    (byteAt bytes o).toNat = d.state.code ∧ byteAt bytes (o + 1) = 0 ∧ fieldAt bytes (o + 2) 2 = d.failedAttempts.toNat
    ∧ fieldAt bytes (o + 4) 4 = d.pagesProgrammed.toNat := by
  have hlength := deviceReport_length d
  have hstate : (byteAt bytes o).toNat = (BitVec.ofNat 8 d.state.code).toNat := congrArg BitVec.toNat (h.byteAt 0 (by omega))
  have hcode : (BitVec.ofNat 8 d.state.code).toNat = d.state.code := by cases d.state <;> rfl
  refine ⟨hstate.trans hcode, h.byteAt 1 (by omega), (h.fieldAt 2 2 (by omega)).trans ?_, (h.fieldAt 4 4 (by omega)).trans ?_⟩
  · exact ofLeBytes_leBytes_of_lt 2 _ d.failedAttempts.isLt
  · exact ofLeBytes_leBytes_of_lt 4 _ d.pagesProgrammed.isLt

/-- R187: the fields of a buffer record. -/
theorem bufferReport_fields (o : Option Buffer) (bytes : List Byte) (k : Nat) : StandsAt bytes k (bufferReportBytes o) →
    match o with
    | none => byteAt bytes k = 0 ∧ fieldAt bytes (k + 1) 2 = 0
    | some y =>
      (byteAt bytes k).extractLsb' 4 4 = (match y.state with
        | .gathering => 1 | .closed => 2 | .filling => 3 | .programming => 4 | .verifying => 5)
      ∧ ((byteAt bytes k).extractLsb' 0 4).toNat = y.device.val
      ∧ (y.page < 65536 → fieldAt bytes (k + 1) 2 = y.page) := by
  intro h
  have hlength := bufferReport_length o
  have hfirst : byteAt bytes k = _ := h.byteAt 0 (by omega)
  have hpage : fieldAt bytes (k + 1) 2 = _ := h.fieldAt 1 2 (by omega)
  rw [hfirst, hpage]
  cases o with
  | none => exact ⟨rfl, rfl⟩
  | some y =>
    have hdevice := y.device.isLt
    have hbyte : byteAt (bufferReportBytes (some y)) 0 = BitVec.ofNat 8 (16 * y.state.code + y.device.val) := rfl
    rw [hbyte]
    have hcode : y.state.code ≤ 5 := by cases y.state <;> decide
    have hstate : BitVec.ofNat 4 y.state.code = (match y.state with
        | .gathering => 1 | .closed => 2 | .filling => 3 | .programming => 4 | .verifying => 5) := by cases y.state <;> rfl
    refine ⟨hstate ▸ BitVec.eq_of_toNat_eq ?_, ?_, fun hy => ofLeBytes_leBytes_of_lt 2 _ hy⟩
    · rw [toNat_extractLsb_eq, BitVec.toNat_ofNat, BitVec.toNat_ofNat]
      omega
    · rw [toNat_extractLsb_eq, BitVec.toNat_ofNat]
      omega

/-- Settles O30: the snapshot, then its bytes in the order of R187. -/
theorem reportSnapshot : Obligations.ReportSnapshot := by
  intro r s x ring slot cfg e hrefused hlive hbus hjob hcfg hfree hlower
  have hexec : exec (.report r) s = s.accept (Kind.ofCode 10) r takeReport := rfl
  have hanswer := hexec.trans (s.accept_numbered takeReport hrefused hlive hbus hjob hcfg hfree hlower)
  have hnumbered := s.entry_numbered cfg ring slot (Kind.ofCode 10) r e
  have hentry (e' : EntryId) := ((s.newEvent.fetched cfg ring).numbered e ring slot (Kind.ofCode 10) r).entry_mapEntry e e'
    fun x => { x with state := .active }
  have hoccupancy : ((s.newEvent.fetched cfg ring).numbered e ring slot (Kind.ofCode 10) r).occupancy = s.occupancy + 1 :=
    State.occupancy_filled hfree (by rw [hnumbered, if_pos rfl]; rfl) fun e' he => by rw [hnumbered, if_neg he]
  obtain ⟨hpart, hguard, hcopy, hcount, hgeneration, hfailures, hzero, hdropped, hzeros⟩ :=
    ((s.newEvent.fetched cfg ring).numbered e ring slot (Kind.ofCode 10) r).reportBytes_head
  rw [hoccupancy, s.occupancy_eq] at hcount
  rw [PartState.code_eq] at hpart
  rw [copyCode_eq] at hcopy
  refine ⟨_, _, hanswer, rfl, (hentry e).trans ?_, fun e' hne => (hentry e').trans ?_, State.reportBytes_length _, hpart, hguard, hcopy,
    hcount, hgeneration, hfailures, hzero, hdropped, hzeros, fun d => ?_, fun b => ?_⟩
  · rw [if_pos rfl, hnumbered, if_pos rfl]
    rfl
  · rw [if_neg hne, hnumbered, if_neg hne]
  · obtain ⟨hstate, hpad, hfailed, hpages⟩ := DeviceRecord.reportBytes_fields _ _ _ (State.reportBytes_device
      ((s.newEvent.fetched cfg ring).numbered e ring slot (Kind.ofCode 10) r) d)
    rw [show 16 + 8 * d.val + 1 = 17 + 8 * d.val by omega] at hpad
    rw [show 16 + 8 * d.val + 2 = 18 + 8 * d.val by omega] at hfailed
    rw [show 16 + 8 * d.val + 4 = 20 + 8 * d.val by omega] at hpages
    exact ⟨hstate, hpad, hfailed, hpages⟩
  · have hbuffer := bufferReport_fields _ _ _ (State.reportBytes_buffer
      ((s.newEvent.fetched cfg ring).numbered e ring slot (Kind.ofCode 10) r) b)
    rw [show 80 + 3 * b.val + 1 = 81 + 3 * b.val by omega] at hbuffer
    exact hbuffer

end Sys2Proof.Machine
end

section
/-! PROOFS. The master arbiter (R159, R170): what each grant needs, and the obligation MasterArbiterGrants. -/

namespace Sys2Proof.Machine

section
variable {s : State}

theorem State.masterFree_iff : s.masterFree = true ↔ s.host.engine = none ∧ s.host.part ≠ .halted ∧ s.host.resetPending = false := by
  simp [State.masterFree, and_assoc]

/-- R173: with the engine idle and the part not HALTED, when a completion write is requested. -/
theorem State.postRequested_iff (hidle : s.host.engine = none) (hpart : s.host.part ≠ .halted) :
    s.postRequested = true ↔ s.host.part ≠ .loading ∧ s.orders.done ≠ [] ∧ ∃ c, s.fetch.config = some c ∧
      (s.poster.tail + 1) % c.completion.size ≠ s.poster.head := by
  have hposts : s.host.part.posts = true ↔ s.host.part ≠ .loading := by
    cases h : s.host.part <;> simp_all [PartState.posts]
  have hbus : s.postOnBus = false := by simp [State.postOnBus, hidle]
  rw [State.postRequested, Bool.and_eq_true, Bool.and_eq_true, Bool.and_eq_true, hposts, hbus]
  cases s.fetch.config with
  | none => simp
  | some c =>
    simp [ringNext, and_assoc]
    exact fun _ _ => decide_eq_true_iff

theorem State.grantMaster_of_post {c : RingConfig} {e : EntryId} {rest : List EntryId} (hfree : s.masterFree = true)
    (hconfig : s.fetch.config = some c) (hdone : s.orders.done = e :: rest) (hpost : s.postRequested = true) :
    s.grantMaster = s.grantPost c e := by
  simp [State.grantMaster, hfree, hconfig, hdone, hpost]

theorem State.grantMaster_of_setup (hfree : s.masterFree = true) (hpost : s.postRequested = false) (hsetup : s.host.setupRequest = true) :
    s.grantMaster = s.grantSetup := by
  simp [State.grantMaster, hfree, hpost, hsetup]

theorem State.grantMaster_of_request {r : Request} (hfree : s.masterFree = true) (hpost : s.postRequested = false)
    (hsetup : s.host.setupRequest = false) (holdest : s.oldestRequest = some r) : s.grantMaster = s.grantRequest r := by
  simp [State.grantMaster, hfree, hpost, hsetup, holdest]

theorem State.grantMaster_of_fetch {c : RingConfig} (hfree : s.masterFree = true) (hpost : s.postRequested = false)
    (hsetup : s.host.setupRequest = false) (holdest : s.oldestRequest = none) (hconfig : s.fetch.config = some c)
    (hfetch : s.fetchRequested = true) : s.grantMaster = s.grantFetch c := by
  simp [State.grantMaster, hfree, hpost, hsetup, holdest, hconfig, hfetch]

theorem State.grantMaster_of_idle (hpost : s.postRequested = false)
    (hsetup : s.host.setupRequest = false) (holdest : s.oldestRequest = none) (hfetch : s.fetchRequested = false) :
    s.grantMaster = s := by
  simp [State.grantMaster, hpost, hsetup, holdest, hfetch]

/-- R159: the request granted is the oldest, and of one event the earliest accepted order. -/
theorem State.oldestRequest_some (hne : s.host.requests ≠ []) :
    ∃ r ∈ s.host.requests, s.oldestRequest = some r ∧ (∀ r' ∈ s.host.requests, r.since ≤ r'.since)
      ∧ ∀ r' ∈ s.host.requests, ∀ e e', r'.since = r.since →
          (r.job = .writeData e ∨ r.job = .readData e ∨ r.job = .reportStore e) →
          (r'.job = .writeData e' ∨ r'.job = .readData e' ∨ r'.job = .reportStore e') → s.orderAge e' ≤ s.orderAge e := by
  cases hmin : (s.host.requests.map (·.since)).min? with
  | none => exact absurd (by simpa using hmin) hne
  | some first =>
    rw [List.min?_eq_some_iff] at hmin
    obtain ⟨hmem, hleast⟩ := hmin
    obtain ⟨first', hfirst', rfl⟩ := List.mem_map.1 hmem
    have hlow (r' : Request) (hr' : r' ∈ s.host.requests) : first'.since ≤ r'.since := hleast _ (List.mem_map_of_mem hr')
    cases hold : s.oldestRequest with
    | none =>
      simp only [State.oldestRequest, List.min?_eq_some_iff.2 ⟨hmem, hleast⟩, oldestBy_none, List.filter_eq_nil_iff] at hold
      exact absurd (decide_eq_true rfl) (hold first' hfirst')
    | some r =>
      simp only [State.oldestRequest, List.min?_eq_some_iff.2 ⟨hmem, hleast⟩] at hold
      obtain ⟨hr, hage⟩ := oldestBy_some _ _ _ hold
      simp only [List.mem_filter, decide_eq_true_eq] at hr hage
      refine ⟨r, hr.1, rfl, fun r' hr' => hr.2 ▸ hlow r' hr', fun r' hr' e e' hsince hjob hjob' => ?_⟩
      have hle := hage r' ⟨hr', hsince.trans hr.2⟩
      rcases hjob with h | h | h <;> rcases hjob' with h' | h' | h' <;> rw [h, h'] at hle <;> exact hle

theorem State.fetchRequested_iff (hidle : s.host.engine = none) {c : RingConfig} (hconfig : s.fetch.config = some c) :
    s.fetchRequested = true ↔ s.host.part = .running ∧ (∃ e, s.entry? e = none)
      ∧ (s.fetch.urgentHead ≠ s.fetch.urgentTail ∨ s.fetch.normalHead ≠ s.fetch.normalTail) := by
  have hbus : s.fetchOnBus = false := by simp [State.fetchOnBus, hidle]
  have hfree : s.lowestFreeEntry.isSome = true ↔ ∃ e, s.entry? e = none := by
    simp [State.lowestFreeEntry, List.find?_isSome]
  rw [State.fetchRequested, Bool.and_eq_true, Bool.and_eq_true, Bool.and_eq_true, hfree, hbus]
  simp [RingFetch.normalWaits, RingFetch.urgentWaits, hconfig]
  tauto

/-- R170: the table of the fetch's ring. -/
theorem RingFetch.choose_eq (f : RingFetch) (hconfig : f.config.isSome = true) :
    f.choose = if f.urgentHead ≠ f.urgentTail ∧ (f.normalHead = f.normalTail ∨ f.urgentRun < 4)
      then (.urgent, if f.normalHead = f.normalTail then 0 else f.urgentRun + 1) else (.normal, 0) := by
  by_cases hu : f.urgentHead = f.urgentTail <;> by_cases hn : f.normalHead = f.normalTail <;>
    simp [RingFetch.choose, RingFetch.urgentWaits, RingFetch.normalWaits, hconfig, hu, hn]

end

/-- Settles O17: the grants in their order. -/
theorem masterArbiterGrants : Obligations.MasterArbiterGrants := by
  refine ⟨fun s h => ?_, fun s hidle hpart hpending => ?_⟩
  · have hbusy : s.masterFree = false := by
      rw [Bool.eq_false_iff, ne_eq, State.masterFree_iff]
      rintro ⟨hidle, hpart, hpending⟩
      rcases h with h | h | h
      · exact h hidle
      · exact hpart h
      · rw [hpending] at h
        cases h
    rw [State.hostSide, s.grantMaster_of_not_free hbusy]
    rfl
  · have hfree := State.masterFree_iff.2 ⟨hidle, hpart, hpending⟩
    refine ⟨_, rfl, ?_, s.hostSide_follows, fun post hpost => ?_⟩
    · obtain ⟨engine, requests, setupRequest, urgentRun, hframe⟩ := s.grantMaster_frame
      rw [State.hostSide, hframe]
      rfl
    rw [← State.postRequested_iff hidle hpart, ← Bool.eq_iff_iff] at hpost
    subst hpost
    refine ⟨fun c e rest x r hpost hconfig hdone hx hr => ?_, fun hpost hsetup => ?_, fun hpost hsetup hne => ?_,
      fun hpost hsetup hnone => ?_⟩
    · have hgrant : s.hostSide = (s.grantPost c e).updateIntreq := by
        rw [State.hostSide, State.grantMaster_of_post hfree hconfig hdone hpost]
      rw [hgrant, State.grantPost, hx]
      dsimp only
      rw [hr]
      exact ⟨rfl, rfl, rfl, rfl⟩
    · have hgrant : s.hostSide = s.grantSetup.updateIntreq := by
        rw [State.hostSide, State.grantMaster_of_setup hfree hpost hsetup]
      rw [hgrant]
      exact ⟨rfl, rfl, rfl, rfl⟩
    · obtain ⟨r, hr, holdest, hsince, hage⟩ := State.oldestRequest_some hne
      have hgrant : s.hostSide = (s.grantRequest r).updateIntreq := by
        rw [State.hostSide, State.grantMaster_of_request hfree hpost hsetup holdest]
      obtain ⟨hjob, hmoved, htaken, hretries, hused, hwrite, hread, hreport⟩ := s.requestTransfer_spec r
      rw [hgrant]
      exact ⟨r, hr, _, rfl, hjob, hmoved, htaken, hretries, hused, rfl, hsetup, rfl, hwrite, hread, hreport, hsince, hage⟩
    · have holdest : s.oldestRequest = none := by simp [State.oldestRequest, hnone]
      have hquiet (h : s.fetchRequested = false) : s.hostSide.host.requests = [] ∧ s.hostSide.host.setupRequest = false
          ∧ s.hostSide.host.engine = none ∧ s.hostSide.fetch.urgentRun = s.fetch.urgentRun := by
        rw [State.hostSide, State.grantMaster_of_idle hpost hsetup holdest h]
        exact ⟨hnone, hsetup, hidle, rfl⟩
      cases hconfig : s.fetch.config with
      | none =>
        have hfetch : s.fetchRequested = false := by
          simp [State.fetchRequested, RingFetch.normalWaits, RingFetch.urgentWaits, hconfig]
        obtain ⟨h1, h2, h3⟩ := hquiet hfetch
        exact ⟨h1, h2, h3⟩
      | some c =>
        dsimp only
        have hiff := State.fetchRequested_iff hidle hconfig
        by_cases hfetch : s.fetchRequested = true
        · have hgrant : s.hostSide = (s.grantFetch c).updateIntreq := by
            rw [State.hostSide, State.grantMaster_of_fetch hfree hpost hsetup holdest hconfig hfetch]
          rw [if_pos (hiff.1 hfetch), hgrant]
          refine ⟨hnone, hsetup, ?_⟩
          have hchoose := s.fetch.choose_eq (by rw [hconfig]; rfl)
          split
          · next hurgent =>
            rw [if_pos hurgent] at hchoose
            rw [State.grantFetch, hchoose]
            exact ⟨rfl, rfl⟩
          · next hnormal =>
            rw [if_neg hnormal] at hchoose
            rw [State.grantFetch, hchoose]
            exact ⟨rfl, rfl⟩
        · obtain ⟨h1, h2, h3⟩ := hquiet (Bool.eq_false_iff.2 hfetch)
          rw [if_neg fun h => hfetch (hiff.2 h)]
          exact ⟨h1, h2, h3⟩

end Sys2Proof.Machine
end

section
/-! PROOFS. Starts at the head of the gather queue and of the Read Engine, and the actions of the barrier orders (R78, R82 to R84, R96, R97,
R107, R110, R111, R116, R138, R139, R150 to R154, R167): the obligations WriteAndFillStart, FlushStart, SetZoneStartAndAction,
SetGeometryStartAndApply, StoreProfileStartAndBuild, ReadStartAndResume and LoadAndDrainEnd. -/

namespace Sys2Proof.Machine

/-! ### The start of the head order as an event -/

section
variable {s : State} {e : EntryId} {x : Entry} {rest : List EntryId}

theorem State.headToStart_some (hturn : s.gather.turn = none) (hqueue : s.gather.queue = e :: rest) (hx : s.entry? e = some x)
    (hmay : s.mayStartGather e = true) : s.headToStart = some (e, x) := by
  simp [State.headToStart, hturn, hqueue, hx, hmay]

theorem State.headToStart_none (hturn : s.gather.turn = none) (hqueue : s.gather.queue = e :: rest)
    (hmay : s.mayStartGather e = false) : s.headToStart = none := by
  simp [State.headToStart, hturn, hqueue, hmay]

/-- R96: the head order starts in its event. -/
theorem State.startIf_answers (k : Kind) (start : State → EntryId → Entry → State) (hrst : s.pins.hrst = false)
    (hturn : s.gather.turn = none) (hqueue : s.gather.queue = e :: rest) (hx : s.entry? e = some x) (hk : x.kind = k)
    (hmay : s.mayStartGather e = true) :
    (s.react fun v => v.startIf k (start v)) = .next (start s.newEvent e x).conclude := by
  have hhead : s.newEvent.headToStart = some (e, x) := State.headToStart_some (s := s.newEvent) hturn hqueue hx hmay
  exact s.react_some _ _ hrst (by simp [State.startIf, hhead, hk])

/-- R83, R84: a head order that is held back does not start. -/
theorem State.startIf_held (k : Kind) (start : State → EntryId → Entry → State) (hturn : s.gather.turn = none)
    (hqueue : s.gather.queue = e :: rest) (hmay : s.mayStartGather e = false) :
    (s.react fun v => v.startIf k (start v)) = .next s := by
  have hhead : s.newEvent.headToStart = none := State.headToStart_none (s := s.newEvent) hturn hqueue hmay
  exact s.react_none _ (by simp [State.startIf, hhead])

/-- R83, R84: FLUSH and SET_ZONE are never held back. -/
theorem State.mayStartGather_free (hx : s.entry? e = some x) (hk : x.kind = .flush ∨ x.kind = .setZone) :
    s.mayStartGather e = true := by
  have hwrites : x.writes = false := by rcases hk with hk | hk <;> simp [Entry.writes, hk]
  have hgeometry : x.kind ≠ .setGeometry := by rcases hk with hk | hk <;> simp [hk]
  simp only [State.mayStartGather, hx, List.all_eq_true]
  intro e' _
  split
  · rfl
  · simp [hwrites, hgeometry]

theorem State.HeadEnds.startFails {u : State} {status : Status} (h : s.newEvent.HeadEnds u e x ⟨status, 0, none⟩) :
    s.StartFails u e x status := h

theorem State.HeadWatches.takesWatch {u : State} {state : OrderState} {turn : Option Turn} {p : Buffer → Bool}
    (h : s.newEvent.HeadWatches u e x state turn p) : s.TakesWatch u e x state turn p := by
  obtain ⟨hframe, hcloses, hwatch, hothers⟩ := h
  exact ⟨hframe, hcloses.of_same rfl rfl, hwatch, hothers⟩

/-- R78, R91, R96: all that an end at the start changes. -/
theorem State.HeadEnds.shape {v : State} {r : Result} (h : s.HeadEnds v e x r) : ∃ entries, v = { s with
    orders := { s.orders with entries }, gather := { s.gather with queue := s.gather.queue.filter (· ≠ e) }
    startedGather := s.startedGather ++ [e] } := ⟨_, h.1⟩

end

theorem of_if_pos {c a b : Prop} [Decidable c] (hc : c) (h : if c then a else b) : a := (if_pos hc).mp h

theorem of_if_neg {c a b : Prop} [Decidable c] (hc : ¬ c) (h : if c then a else b) : b := (if_neg hc).mp h

/-! ### WRITE, FILL and FLUSH -/

/-- Settles O31: held back, or the checks of R97. -/
theorem writeAndFillStart : Obligations.WriteAndFillStart := by
  intro s e x rest c hrst hturn hqueue hx hsequence hc
  have hmay := s.mayStartGather_iff e x hx hsequence
  refine ⟨fun hheld => ?_, fun hallowed => ?_⟩
  · have hno : s.mayStartGather e = false := by
      rw [Bool.eq_false_iff, ne_eq, hmay]
      exact hheld
    rcases hc with ⟨rfl, -⟩ | ⟨rfl, -⟩
    · exact State.startIf_held .write (fun v e x => v.startMerging e x .hostData) hturn hqueue hno
    · exact State.startIf_held .fill (fun v e x => v.startMerging e x (.pattern x.record.selector)) hturn hqueue hno
  · rcases hc with ⟨rfl, hk⟩ | ⟨rfl, hk⟩
    · refine ⟨_, State.startIf_answers .write (fun v e x => v.startMerging e x .hostData) hrst hturn hqueue hx hk (hmay.2 hallowed), ?_⟩
      have hstarts := s.newEvent.startMerging_starts e x .hostData hx (.inl hk)
      have hwork : (if x.kind = .write then TurnWork.hostData else .pattern x.record.selector) = .hostData := if_pos hk
      rw [hwork]
      exact hstarts
    · refine ⟨_, State.startIf_answers .fill (fun v e x => v.startMerging e x (.pattern x.record.selector)) hrst hturn hqueue hx hk
        (hmay.2 hallowed), ?_⟩
      have hstarts := s.newEvent.startMerging_starts e x (.pattern x.record.selector) hx (.inr hk)
      have hwork : (if x.kind = .write then TurnWork.hostData else .pattern x.record.selector) = .pattern x.record.selector := by
        rw [hk]
        rfl
      rw [hwork]
      exact hstarts

/-- Settles O32: no device, the report at once, or the wait. -/
theorem flushStart : Obligations.FlushStart := by
  intro s e x rest hrst hturn hqueue hx hk
  refine ⟨_, State.startIf_answers .flush State.startFlush hrst hturn hqueue hx hk (State.mayStartGather_free hx (.inl hk)), ?_⟩
  have hstarts := s.newEvent.startFlush_starts e x hturn hx hk
  by_cases habsent : x.record.device ≠ 15 ∧ (s.device x.record.position).state = .absent
  · have hends : s.newEvent.HeadEnds _ e x ⟨.noDevice, 0, none⟩ := of_if_pos habsent hstarts
    exact (if_pos habsent).mpr hends
  · have hpresent := of_if_neg habsent hstarts
    refine (if_neg habsent).mpr ?_
    by_cases hempty : ∀ b y, s.buffer? b = some y → (x.record.device = 15 || x.record.position = y.device) = false
    · obtain ⟨v, ⟨hframe, hentry, hothers⟩, hu⟩ := of_if_pos hempty hpresent
      refine (if_pos hempty).mpr ⟨?_, ?_, fun e' hne => ?_⟩
      · rw [hu, hframe]
        rfl
      · rw [hu]
        exact hentry
      · rw [hu]
        exact hothers e' hne
    · have hwatches := of_if_neg hempty hpresent
      exact (if_neg hempty).mpr hwatches.takesWatch

/-! ### Barrier orders -/

/-- R111: the barrier order that holds the turn with an empty watch acts in its event. -/
theorem State.actIf_answers {s : State} {t : Turn} {x : Entry} (k : Kind) (act : State → EntryId → Entry → State)
    (hrst : s.pins.hrst = false) (hturn : s.gather.turn = some t) (hwork : t.work = .barrier) (hx : s.entry? t.entry = some x)
    (hk : x.kind = k) (hwatch : x.watch = []) :
    (s.react fun v => v.actIf k (act v)) = .next (act s.newEvent t.entry x).conclude := by
  have hat : s.newEvent.atTurn = some (t, x) := State.atTurn_is (s := s.newEvent) hturn hx
  exact s.react_some _ _ hrst (by simp [State.actIf, State.barrierDue, hat, hwork, hwatch, hk])

/-- R80, R111: a barrier order ends and gives up its turn, in a state that differs elsewhere. -/
theorem State.goDone_release {s w : State} {e : EntryId} {x : Entry} {r : Result} (hw : w.orders = s.orders) (hx : s.entry? e = some x)
    (hgather : w.startedGather = []) (hread : w.startedRead = []) :
    ((w.goDone e r).releaseTurn = { w with
        orders := (w.goDone e r).releaseTurn.orders, gather := { w.gather with turn := none } })
    ∧ s.EndsOrder (w.goDone e r).releaseTurn e x r := by
  obtain ⟨orders, hdone⟩ := w.goDone_shape e r
  refine ⟨?_, (State.goDone_ends hw hx hgather hread).of_orders rfl rfl⟩
  rw [hdone]
  rfl

theorem State.guardsIndex_iff (s : State) (i : ZoneIndex) :
    s.guardsIndex i = true ↔ s.zones.guard = true ∧ ∃ z, s.zones.entries[i] = some z ∧ z.mode = .guardedZone := by
  unfold State.guardsIndex
  cases s.zones.entries[i] <;> simp

/-- Settles O34: the start by its checks, then the action. -/
theorem setZoneStartAndAction : Obligations.SetZoneStartAndAction := by
  refine ⟨fun s e x rest new hrst hturn hqueue hx hk hzone => ?_, fun s t x new hrst hturn hwork hx hk hwatch hzone => ?_⟩
  · refine ⟨_, State.startIf_answers .setZone State.startSetZone hrst hturn hqueue hx hk (State.mayStartGather_free hx (.inr hk)), ?_⟩
    rintro guarded badRange concerned hguarded hrange hconcerned
    obtain ⟨hprotected, hbad, hnone, hwatch⟩ := s.newEvent.startSetZone_starts e x new hturn hx hk hzone
    refine ⟨fun hg => (hprotected (hguarded.1 hg)).startFails, fun hg hb => (hbad (fun h => hg (hguarded.2 h)) (hrange.1 hb)).startFails,
      fun hg hb hc => ?_, fun hg hb hc => ?_⟩
    · obtain ⟨v, ⟨hframe, hentry, hothers⟩, hu⟩ := hnone (fun h => hg (hguarded.2 h)) (fun h => hb (hrange.2 h))
        fun h => hc (hconcerned.2 h)
      refine ⟨?_, ?_, fun e' hne => ?_⟩
      · rw [hu, hframe]
        rfl
      · rw [hu]
        exact hentry
      · rw [hu]
        exact hothers e' hne
    · obtain ⟨p, hp, hwatches⟩ := hwatch (fun h => hg (hguarded.2 h)) (fun h => hb (hrange.2 h)) (hconcerned.1 hc)
      exact ⟨p, hp, hwatches.takesWatch⟩
  · refine ⟨_, State.actIf_answers .setZone State.actSetZone hrst hturn hwork hx hk hwatch, ?_⟩
    have hguards := s.guardsIndex_iff x.record.zoneIndex
    refine ⟨fun hrefused => ?_, fun hfree => ?_⟩
    · have hact : s.newEvent.actSetZone t.entry x = (s.newEvent.goDone t.entry (.plain .protection 0)).releaseTurn :=
        if_pos (hguards.2 hrefused)
      obtain ⟨hframe, hends⟩ := State.goDone_release (s := s) (w := s.newEvent) (r := .plain .protection 0) rfl hx rfl rfl
      rw [hact]
      exact ⟨hframe, hends⟩
    · have hact : s.newEvent.actSetZone t.entry x = (State.goDone { s.newEvent with zones := { s.zones with
          entries := s.zones.entries.set x.record.zoneIndex new } } t.entry (.plain .ok 0)).releaseTurn := by
        rw [State.actSetZone, hzone]
        exact if_neg fun h => hfree (hguards.1 h)
      obtain ⟨hframe, hends⟩ := State.goDone_release (s := s) (w := { s.newEvent with zones := { s.zones with
          entries := s.zones.entries.set x.record.zoneIndex new } }) (r := .plain .ok 0) rfl hx rfl rfl
      rw [hact]
      exact ⟨hframe, hends⟩

/-- Settles O35: the start by its checks, then the application. -/
theorem setGeometryStartAndApply : Obligations.SetGeometryStartAndApply := by
  refine ⟨fun s e x rest new hrst hturn hqueue hx hsequence hk hgeometry => ?_,
    fun s t x new hrst hturn hwork hx hk hwatch hgeometry => ?_⟩
  · have hmay := s.mayStartGather_iff e x hx hsequence
    refine ⟨fun hheld => ?_, fun hallowed => ?_⟩
    · have hno : s.mayStartGather e = false := by
        rw [Bool.eq_false_iff, ne_eq, hmay]
        exact hheld
      exact State.startIf_held .setGeometry State.startSetGeometry hturn hqueue hno
    · refine ⟨_, State.startIf_answers .setGeometry State.startSetGeometry hrst hturn hqueue hx hk (hmay.2 hallowed), ?_⟩
      obtain ⟨hbad, hnone, hwatch⟩ := s.newEvent.startSetGeometry_starts e x new hturn hx hk hgeometry
      refine ⟨fun hfits => (hbad hfits).startFails, fun hfits hempty => ?_, fun hfits hsome => (hwatch hfits hsome).takesWatch⟩
      obtain ⟨v, hends, happlied, hu⟩ := hnone hfits hempty
      obtain ⟨entries, hframe⟩ := hends.shape
      obtain ⟨-, hentry, hothers⟩ := hends
      generalize s.newEvent.startSetGeometry e x = u at hu happlied ⊢
      refine ⟨?_, happlied, ?_, fun e' hne => ?_⟩
      · rw [hframe] at hu
        have hentries : u.orders.entries = entries := congrArg (fun u : State => u.orders.entries) hu
        rw [hentries]
        exact hu
      · rw [hu]
        exact hentry
      · rw [hu]
        exact hothers e' hne
  · refine ⟨_, State.actIf_answers .setGeometry State.actSetGeometry hrst hturn hwork hx hk hwatch, ?_⟩
    obtain ⟨happlied, hframe⟩ := s.newEvent.applyGeometry_applies x.record.position new
    have hact : s.newEvent.actSetGeometry t.entry x
        = ((s.newEvent.applyGeometry x.record.position new).goDone t.entry (.plain .ok 0)).releaseTurn := by
      have hposition : x.position = x.record.position := by simp [Entry.position, hk]
      rw [State.actSetGeometry, hgeometry, hposition]
      rfl
    have horders : (s.newEvent.applyGeometry x.record.position new).orders = s.orders := (congrArg State.orders hframe).trans rfl
    have hgather : (s.newEvent.applyGeometry x.record.position new).startedGather = [] := (congrArg State.startedGather hframe).trans rfl
    have hread : (s.newEvent.applyGeometry x.record.position new).startedRead = [] := (congrArg State.startedRead hframe).trans rfl
    have hends := State.goDone_ends (r := .plain .ok 0) horders hx hgather hread
    obtain ⟨orders, hdone⟩ := (s.newEvent.applyGeometry x.record.position new).goDone_shape t.entry (.plain .ok 0)
    rw [hdone] at hends
    rw [hact, hdone]
    refine ⟨?_, happlied, hends.of_orders rfl rfl⟩
    rw [hframe]
    rfl

/-- Settles O36: the start by its checks, then the build. -/
theorem storeProfileStartAndBuild : Obligations.StoreProfileStartAndBuild := by
  refine ⟨fun s e x rest k hrst hturn hqueue hx hsequence hk htargets => ?_, fun s t x j hrst hturn hwork hx hk hwatch hstore => ?_⟩
  · have hmay := s.mayStartGather_iff e x hx hsequence
    refine ⟨fun hheld => ?_, fun hallowed => ?_⟩
    · have hno : s.mayStartGather e = false := by
        rw [Bool.eq_false_iff, ne_eq, hmay]
        exact hheld
      exact State.startIf_held .storeProfile (fun v e _ => v.startStoreProfile e) hturn hqueue hno
    · refine ⟨_, State.startIf_answers .storeProfile (fun v e _ => v.startStoreProfile e) hrst hturn hqueue hx hk (hmay.2 hallowed), ?_⟩
      have hstarts := s.newEvent.startStoreProfile_starts e x k hturn hx hk htargets
      dsimp only
      by_cases hguard : s.zones.guard = true
      · exact (if_pos hguard).mpr (State.HeadEnds.startFails (of_if_pos hguard hstarts))
      have hopen := of_if_neg hguard hstarts
      refine (if_neg hguard).mpr ?_
      by_cases hfull : s.loader.generation = 0xFFFFFFFF#32
      · exact (if_pos hfull).mpr (State.HeadEnds.startFails (of_if_pos hfull hopen))
      have hroom := of_if_neg hfull hopen
      refine (if_neg hfull).mpr ?_
      by_cases hsome : ∃ b, ∃ y, s.buffer? b = some y ∧ s.holdsCopy k y = true
      · exact (if_pos hsome).mpr (State.HeadWatches.takesWatch (of_if_pos hsome hroom))
      have hnone := of_if_neg hsome hroom
      refine (if_neg hsome).mpr ?_
      by_cases hoffline : (s.device 0).state = .offline
      · obtain ⟨hframe, hentry, hothers⟩ : s.newEvent.HeadEnds _ e _ _ := of_if_pos hoffline hnone
        exact ⟨hothers, (if_pos hoffline).mpr ⟨hframe, hentry⟩⟩
      · obtain ⟨hframe, hentry, hothers⟩ : s.newEvent.HeadTakesTurn _ e _ _ := of_if_neg hoffline hnone
        exact ⟨hothers, (if_neg hoffline).mpr ⟨hframe, hentry⟩⟩
  · refine ⟨_, State.actIf_answers .storeProfile (fun v e _ => v.actStoreProfile e) hrst hturn hwork hx hk hwatch, ?_⟩
    by_cases hoffline : (s.device 0).state = .offline
    · have hact : s.newEvent.actStoreProfile t.entry = (s.newEvent.goDone t.entry (.plain .deviceOffline 0)).releaseTurn := if_pos hoffline
      obtain ⟨hframe, hends⟩ := State.goDone_release (s := s) (w := s.newEvent) (r := .plain .deviceOffline 0) rfl hx rfl rfl
      dsimp only
      rw [hact]
      exact (if_pos hoffline).mpr ⟨hframe, hends⟩
    · have hact : s.newEvent.actStoreProfile t.entry = (s.newEvent.mapEntry t.entry fun x => { x with
          progress := 0, store := x.store.map fun j => { j with generation := s.loader.generation + 1 } }).mapTurn
            fun t => { t with work := .profileRecord (profileBytes (s.loader.generation + 1) s.loader.geometry s.zones.entries) } :=
        if_neg hoffline
      have hentry (e' : EntryId) := s.newEvent.entry_mapEntry t.entry e' fun x => { x with
          progress := 0, store := x.store.map fun j => { j with generation := s.loader.generation + 1 } }
      have hx' : s.newEvent.entry? t.entry = some x := hx
      dsimp only
      rw [hact]
      refine (if_neg hoffline).mpr ⟨?_, (hentry _).trans ?_, fun e' hne => (hentry e').trans (if_neg hne)⟩
      · simp only [State.mapTurn, State.mapEntry_gather, State.newEvent_gather, hturn, Option.map_some]
        rfl
      · rw [if_pos rfl, hx', Option.map_some, hstore]
        rfl

/-! ### Reads -/

/-- An entry of the waiting set that may start is there. -/
theorem State.entry_of_mayStartRead {s : State} {e : EntryId} (h : s.mayStartRead e = true) : ∃ x, s.entry? e = some x := by
  cases hx : s.entry? e with
  | none => simp [State.mayStartRead, hx] at h
  | some x => exact ⟨x, rfl⟩

/-- Settles O37: the READ chosen, its start, and the ready read that resumes. -/
theorem readStartAndResume : Obligations.ReadStartAndResume := by
  refine ⟨fun s hrst hactive hready => ⟨fun hheld => ?_, fun e x hmem hx hk hsequence hallowed holdest => ?_⟩,
    fun s e x hrst hactive hmem hx hk holdest => ?_⟩
  · have hfilter : s.reader.waiting.filter s.mayStartRead = [] := by
      rw [List.filter_eq_nil_iff]
      intro e hmem hmay
      obtain ⟨x, hx⟩ := State.entry_of_mayStartRead hmay
      obtain ⟨hsequence, hnot⟩ := hheld e hmem x hx
      exact hnot ((s.mayStartRead_iff e x hx hsequence).1 hmay)
    have hnone : s.readToStart = none := by rw [s.readToStart_eq hactive hready, hfilter, oldestBy_none]
    exact s.react_none (fun v => v.readToStart.map v.startRead) (congrArg (Option.map s.newEvent.startRead) hnone)
  · have hchosen : s.readToStart = some e := by
      rw [s.readToStart_eq hactive hready]
      refine oldestBy_is _ _ _ (List.mem_filter.2 ⟨hmem, (s.mayStartRead_iff e x hx hsequence).2 hallowed⟩) fun e' hmem' hne => ?_
      obtain ⟨hwaits, hmay⟩ := List.mem_filter.1 hmem'
      obtain ⟨y, hy⟩ := State.entry_of_mayStartRead hmay
      exact holdest e' hwaits y hne hy (s.readAllowed_of_mayStartRead e' y hy hmay)
    obtain ⟨v, hv, hothers, hstarts⟩ := s.newEvent.startRead_starts e x hx hk
    have hexec : exec .readStart s = .next (s.newEvent.startRead e).conclude :=
      s.react_some _ (fun v => v.readToStart.map v.startRead) hrst (congrArg (Option.map s.newEvent.startRead) hchosen)
    exact ⟨_, v, hexec, hv, hothers, hstarts⟩
  · have hchosen : s.readToResume = some e := by
      rw [State.readToResume, hactive]
      exact oldestBy_is _ _ _ hmem holdest
    obtain ⟨v, hv, hentry, hothers, htakes⟩ := s.newEvent.resumeRead_resumes e x hx hk
    have hexec : exec .readResume s = .next (s.newEvent.resumeRead e).conclude :=
      s.react_some _ (fun v => v.readToResume.map v.resumeRead) hrst (congrArg (Option.map s.newEvent.resumeRead) hchosen)
    exact ⟨_, v, hexec, hv, hentry, hothers, htakes⟩

/-! ### The ends of the load and of a drain -/

/-- Settles O42. -/
theorem loadAndDrainEnd : Obligations.LoadAndDrainEnd := by
  refine ⟨fun s hrst hphase hpart hdevices => ⟨_, s.react_some _ State.loadEnd? hrst ?_, rfl⟩,
    fun s hrst hpart hentries hbuffers hbus => ⟨_, s.react_some _ State.drainEnd? hrst ?_, rfl⟩⟩
  · rw [State.loadEnd_eq]
    exact if_pos ⟨hphase, hpart, hdevices⟩
  · exact (s.newEvent.drainEnd_eq _ Iff.rfl).1 ⟨hpart, hentries, hbuffers, hbus⟩

end Sys2Proof.Machine
end

section
/-! PROOFS. Timers and frame ends (R14, R24, R26, R30 to R39, R43, R53, R55, R56, R59): what each leaves of the device, the buffer and the
work that waits, and the obligations TimersExpire, ProgramStartAndConfirmingAsk, PollEndsCycle, WakeAndReviveAsks, DurableOrderEnds and
UnusedResultsDiscarded. -/

namespace Sys2Proof.Machine

/-! ### The end of a frame as an event -/

theorem State.frame_answers {α : Type} {s : State} {c : ChannelId} {f : Frame} {a : α} (kind : FrameContent → Option α)
    (act : State → DevicePos → α → State) (hrst : s.pins.hrst = false) (hframe : (s.channel c).frame = some f)
    (hused : f.dropped = false) (hkind : kind f.content = some a) :
    (s.react fun v => v.frameEnd c kind act) = .next (act (s.newEvent.freeChannel c) f.device a).conclude :=
  s.react_some _ _ hrst (s.frameEnd_some c kind act f a hframe hused hkind)

/-- R38: the result of a dropped frame is not used. -/
theorem State.frame_discarded {α : Type} {s : State} {c : ChannelId} {f : Frame} {a : α} (kind : FrameContent → Option α)
    (act : State → DevicePos → α → State) (hrst : s.pins.hrst = false) (hframe : (s.channel c).frame = some f)
    (hdropped : f.dropped = true) (hkind : kind f.content = some a) :
    (s.react fun v => v.frameEnd c kind act) = .next (s.newEvent.freeChannel c).conclude :=
  s.react_some _ _ hrst (s.frameEnd_dropped c kind act f a hframe hdropped hkind)

theorem FrameContent.isAsk_self {p : AskPurpose} {k : FrameContent} (h : k = .ask p) : k.isAsk p = some () := by
  subst h
  exact if_pos rfl

/-! ### Answers -/

theorem answerOf_good {status : Byte} (h : goodAnswer status) : answerOf status = .good (status.getLsbD 3) (status.getLsbD 1) := if_pos h

theorem answerOf_none {status : Byte} (h : ¬ goodAnswer status) : answerOf status = .none := if_neg h

/-- R37: a no-answer is counted, and the third in a row takes the device OFFLINE. -/
theorem State.countNoAnswer_counts (s : State) (d : DevicePos) (goOn : DeviceRecord → DeviceRecord) (r : DeviceRecord)
    (h : goOn { s.device d with noAnswer := (s.device d).noAnswer + 1 } = { r with noAnswer := (s.device d).noAnswer + 1 }) :
    s.NoAnswer (s.countNoAnswer d goOn) d r := by
  unfold State.NoAnswer State.countNoAnswer
  by_cases hfew : (s.device d).noAnswer < 2
  · rw [if_pos hfew, if_neg (by omega), ← h]
    exact s.mapDevice_becomes d fun r => goOn { r with noAnswer := r.noAnswer + 1 }
  · rw [if_neg hfew, if_pos (by omega)]

theorem State.withSlot_some {s : State} {d : DevicePos} {b : BufferId} (act : State → BufferId → State)
    (h : (s.device d).slot = some b) : s.withSlot d act = act s b := by
  simp [State.withSlot, h]

/-! ### Entry to IDLE -/

/-- The device's record once it is IDLE. -/
def DeviceRecord.idles (r : DeviceRecord) : DeviceRecord :=
  { r with state := .idle, wakeLimit := none, cycleTimer := none, pollTimer := false, noAnswer := 0, confirming := false }

/-- R147: the boot wake goes on with the read of copy A. -/
theorem State.bootAwake_eq (s : State) (d : DevicePos) :
    (d = 0 ∧ s.loader.phase = some .wake0 → s.bootAwake d
        = ({ s with loader := { s.loader with phase := some .readA } }).queueItem 0 (.copyRead .a))
    ∧ (¬ (d = 0 ∧ s.loader.phase = some .wake0) → s.bootAwake d = s) :=
  ⟨fun h => if_pos h, fun h => if_neg h⟩

/-- R39: the waiting wake ask of the device is withdrawn. -/
theorem State.channel_withdrawWork (s : State) (d : DevicePos) (w : Work) (c : ChannelId) :
    (s.withdrawWork d w).channel c = if c = channelOf d then
      { s.channel c with waiting := (s.channel c).waiting.filter fun i => i.device ≠ d ∨ i.work ≠ w } else s.channel c := by
  by_cases h : c = channelOf d
  · subst h
    simp [State.withdrawWork, Bool.decide_or]
  · rw [if_neg h]
    exact State.mapChannel_other _ _ _ _ h

/-- R39, R147: all that an entry to IDLE does. -/
theorem State.enterIdle_enters (s : State) (d : DevicePos) : s.EntersIdle (s.enterIdle d) d := by
  obtain ⟨hdevices, hidle, hothers⟩ := s.mapDevice_becomes d DeviceRecord.idles
  have hchannel (c : ChannelId) := (s.mapDevice d DeviceRecord.idles).channel_withdrawWork d (.ask .wake) c
  obtain ⟨hboot, hlater⟩ := (((s.mapDevice d DeviceRecord.idles).withdrawWork d (.ask .wake)).deviceBack d).bootAwake_eq d
  by_cases h : d = 0 ∧ s.loader.phase = some .wake0
  · have henter : s.enterIdle d = _ := hboot h
    obtain ⟨rfl, hphase⟩ := h
    rw [henter]
    refine ⟨rfl, hidle, hothers, rfl, ?_, fun c => ?_⟩
    · simp [hphase]
    · refine ((State.queueItem_queues _ 0 (.copyRead .a)).2 c).trans ?_
      by_cases hc : c = channelOf 0
      · simp only [if_pos hc, hphase, decide_true, Bool.and_true, if_true]
        exact congrArg (fun k : ChannelEngine => { k with waiting := k.waiting ++ [(⟨0, .copyRead .a, s.event⟩ : WorkItem)] })
          ((hchannel c).trans (if_pos hc))
      · rw [if_neg hc, if_neg hc]
        exact (hchannel c).trans (if_neg hc)
  · have henter : s.enterIdle d = _ := hlater h
    have hboot : (decide (d = 0) && decide (s.loader.phase = some .wake0)) = false := by
      simpa using h
    rw [henter]
    refine ⟨rfl, hidle, hothers, rfl, ?_, fun c => ?_⟩
    · simp [hboot]
    · simp only [hboot, Bool.false_eq_true, if_false, List.append_nil]
      exact hchannel c

/-! ### Program starts and status asks -/

/-- Settles O46: the end of the page load, then the three answers to its confirming ask. -/
theorem programStartAndConfirmingAsk : Obligations.ProgramStartAndConfirmingAsk := by
  intro s c f hrst hframe hused hchannel
  refine ⟨fun b a bytes hcontent => ?_, fun hcontent status => ?_⟩
  · have hkind : FrameContent.isStart f.content = some () := by rw [hcontent]; rfl
    exact ⟨_, _, _, State.frame_answers FrameContent.isStart (fun v d _ => v.loadEnded d) hrst hframe hused hkind, s.frameOver c,
      State.mapDevice_becomes _ _ _, State.queueItem_queues _ _ _⟩
  · refine ⟨_, _, State.frame_answers (FrameContent.isAsk .confirming) (fun v d _ => v.confirmed d (answerOf status)) hrst hframe hused
      (FrameContent.isAsk_self hcontent), s.frameOver c, fun hgood hbusy => ?_, fun hgood hbusy b y hslot hy hdevice => ?_, fun hnone => ?_⟩
    · rw [answerOf_good hgood, hbusy]
      exact State.mapDevice_becomes _ _ fun r => { r.cycles with noAnswer := 0 }
    · rw [answerOf_good hgood, hbusy]
      refine ⟨_, State.mapDevice_becomes _ _ fun r => { r with cycleTimer := none, noAnswer := 0, confirming := false }, ?_⟩
      have hslot' : (((s.newEvent.freeChannel c).mapDevice f.device fun r => { r with
          cycleTimer := none, noAnswer := 0, confirming := false }).device f.device).slot = some b := by
        rw [State.mapDevice_device]
        exact hslot
      rw [State.confirmed, State.withSlot_some _ hslot']
      exact State.failAttempt_fails _ b y .noCycle hy
    · rw [answerOf_none hnone]
      exact State.countNoAnswer_counts _ _ DeviceRecord.cycles _ rfl

/-- Settles O47: BUSY, the end of the cycle by its buffer, or a no-answer. -/
theorem pollEndsCycle : Obligations.PollEndsCycle := by
  intro s c f status hrst hframe hused hchannel hcontent
  refine ⟨_, _, State.frame_answers (FrameContent.isAsk .poll) (fun v d _ => v.polled d (answerOf status)) hrst hframe hused
    (FrameContent.isAsk_self hcontent), s.frameOver c, fun hgood hbusy => ?_, fun hgood hbusy b y hslot hy hdevice => ?_, fun hnone => ?_⟩
  · rw [answerOf_good hgood, hbusy]
    exact State.mapDevice_becomes _ _ fun r => { r with noAnswer := 0, pollTimer := true }
  · rw [answerOf_good hgood, hbusy]
    obtain ⟨hframe', hidle, -⟩ := (s.newEvent.freeChannel c).enterIdle_enters f.device
    have hslot' : (((s.newEvent.freeChannel c).enterIdle f.device).device f.device).slot = some b := by
      rw [hidle]
      exact hslot
    have hy' : ((s.newEvent.freeChannel c).enterIdle f.device).buffer? b = some y := by
      rw [State.buffer_of_pool ((congrArg State.pool hframe').trans rfl : _ = s.pool)]
      exact hy
    refine ⟨_, State.enterIdle_enters _ _, fun hfault => ?_, fun hfault hplain => ?_, fun hfault hverify => ?_⟩
    · rw [hfault, State.polled, State.withSlot_some _ hslot']
      exact State.failAttempt_fails _ b y .deviceFlag hy'
    · rw [hfault, State.polled, State.withSlot_some _ hslot', State.cycleGood, hy']
      dsimp only
      rw [if_neg (by rw [hplain]; decide)]
      have hsucceeds := State.succeed_succeeds _ b y hy'
      rw [hdevice] at hsucceeds
      exact hsucceeds
    · rw [hfault, State.polled, State.withSlot_some _ hslot', State.cycleGood, hy']
      dsimp only
      rw [if_pos hverify]
      have hqueue : (((s.newEvent.freeChannel c).enterIdle f.device).mapBuffer b fun y => { y with state := .verifying }).queueItem
          y.device (.verifyRead b) = _ := congrArg (fun d => State.queueItem _ d (.verifyRead b)) hdevice
      rw [hqueue]
      exact ⟨_, State.mapBuffer_becomes _ b y _ hy', State.queueItem_queues _ _ _⟩
  · rw [answerOf_none hnone]
    exact State.countNoAnswer_counts _ _ (fun r => { r with pollTimer := true }) _ rfl

/-- R43: what an answer to a REVIVE's ask does with the order, in the state `w` the device is left in. -/
theorem State.goDone_alone {w : State} {e : EntryId} {x : Entry} (r : Result) (hx : w.entry? e = some x) (hgather : w.startedGather = [])
    (hread : w.startedRead = []) : w.EndsOrder (w.goDone e r) e x r ∧ w.goDone e r = { w with orders := (w.goDone e r).orders } := by
  obtain ⟨orders, hdone⟩ := w.goDone_shape e r
  refine ⟨w.goDone_endsOrder e x r hx hgather hread, ?_⟩
  rw [hdone]

/-- Settles O48: the answers to a wake ask, then those to a REVIVE's ask. -/
theorem wakeAndReviveAsks : Obligations.WakeAndReviveAsks := by
  intro s c f status hrst hframe hused hchannel
  refine ⟨fun hcontent => ?_, fun e x hcontent hx => ?_⟩
  · refine ⟨_, _, State.frame_answers (FrameContent.isAsk .wake) (fun v d _ => v.wakeAnswered d (answerOf status)) hrst hframe hused
      (FrameContent.isAsk_self hcontent), s.frameOver c, fun hgood hbusy => ?_, fun hgood hbusy => ?_, fun hnone => ?_⟩
    · rw [answerOf_good hgood, hbusy]
      exact State.enterIdle_enters _ _
    · rw [answerOf_good hgood, hbusy]
      exact State.mapDevice_becomes _ _ fun r => { r with noAnswer := 0, pollTimer := true }
    · rw [answerOf_none hnone]
      exact State.countNoAnswer_counts _ _ (fun r => { r with pollTimer := true }) _ rfl
  · have hkind : FrameContent.isRevive f.content = some e := by rw [hcontent]; rfl
    have hexec := State.frame_answers FrameContent.isRevive (fun v d e => v.reviveAnswered d e (answerOf status)) hrst hframe hused hkind
    by_cases habsent : (s.device f.device).state = .absent
    · have hact : (s.newEvent.freeChannel c).reviveAnswered f.device e (answerOf status)
          = (s.newEvent.freeChannel c).goDone e (.plain .noDevice 0) := if_pos habsent
      obtain ⟨hends, hrest⟩ := State.goDone_alone (w := s.newEvent.freeChannel c) (.plain .noDevice 0) hx rfl rfl
      rw [hact] at hexec
      exact ⟨_, _, _, hexec, s.frameOver c, fun good _ => ⟨fun _ h => absurd habsent h, fun _ h => absurd habsent h, fun _ => ⟨rfl, hends⟩⟩,
        hrest⟩
    by_cases hgood : goodAnswer status ∧ status.getLsbD 3 = false
    · have hact : (s.newEvent.freeChannel c).reviveAnswered f.device e (answerOf status)
          = ((s.newEvent.freeChannel c).enterIdle f.device).goDone e (.plain .ok 0) := by
        rw [answerOf_good hgood.1, hgood.2]
        exact if_neg habsent
      have henters := (s.newEvent.freeChannel c).enterIdle_enters f.device
      have hframe' := henters.1
      have hx' : ((s.newEvent.freeChannel c).enterIdle f.device).entry? e = some x := by
        rw [hframe']
        exact hx
      obtain ⟨hends, hrest⟩ := State.goDone_alone (.plain .ok 0) hx' (by rw [hframe']; rfl) (by rw [hframe']; rfl)
      rw [hact] at hexec
      exact ⟨_, _, _, hexec, s.frameOver c, fun good hiff => ⟨fun _ _ => ⟨henters, hends⟩, fun h _ => absurd (hiff.2 hgood) h,
        fun h => absurd h habsent⟩, hrest⟩
    · have hact : (s.newEvent.freeChannel c).reviveAnswered f.device e (answerOf status)
          = (s.newEvent.freeChannel c).goDone e (.plain .deviceOffline 0) := by
        refine (if_neg habsent).trans ?_
        by_cases hmarker : goodAnswer status
        · have hbusy : status.getLsbD 3 = true := by
            rw [← Bool.not_eq_false]
            exact fun h => hgood ⟨hmarker, h⟩
          rw [answerOf_good hmarker, hbusy]
        · rw [answerOf_none hmarker]
      obtain ⟨hends, hrest⟩ := State.goDone_alone (w := s.newEvent.freeChannel c) (.plain .deviceOffline 0) hx rfl rfl
      rw [hact] at hexec
      exact ⟨_, _, _, hexec, s.frameOver c, fun good hiff => ⟨fun h => absurd (hiff.1 h) hgood, fun _ _ => ⟨rfl, hends⟩,
        fun h => absurd h habsent⟩, hrest⟩

/-! ### Timers -/

/-- R14: the closing of one GATHERING buffer. -/
theorem State.closeBuffer_gathering {s : State} {b : BufferId} {y : Buffer} (hy : s.buffer? b = some y) (hgathering : y.state = .gathering) :
    s.closeBuffer b = { s with
        pool := { s.pool with buffers := (s.closeBuffer b).pool.buffers }, channels := (s.closeBuffer b).channels }
    ∧ (s.closeBuffer b).buffer? b = some { y with state := .closed, linger := none }
    ∧ (∀ b', b' ≠ b → (s.closeBuffer b).buffer? b' = s.buffer? b')
    ∧ ∀ c, (s.closeBuffer b).channel c = if c = channelOf y.device then
        { s.channel c with queue := (s.channel c).queue ++ [b] } else s.channel c := by
  have hclose : s.closeBuffer b = (s.mapBuffer b fun x => { x with state := .closed, linger := none }).mapChannel (channelOf y.device)
      fun c => { c with queue := c.queue ++ [b] } := by
    simp [State.closeBuffer, hy, hgathering]
  obtain ⟨-, hbuffer, hothers⟩ := s.mapBuffer_becomes b y (fun x => { x with state := .closed, linger := none }) hy
  rw [hclose]
  exact ⟨rfl, hbuffer, hothers, fun c => State.channel_mapChannel _ _ c _⟩

/-- Settles O45: each expiry, and the expiries that no timer runs for. -/
theorem timersExpire : Obligations.TimersExpire := by
  intro s hrst
  refine ⟨fun b hno => ?_, fun b y hy hgathering hlinger => ?_, fun d p htimer hask => ?_, fun d htimer => ?_, fun d hwaking hlimit => ?_,
    fun d hno => ?_, fun d htimer hcycle => ?_, fun d hno => ?_⟩
  · rw [exec, execLingerExpiry]
    refine s.react_none _ ?_
    cases hy : s.buffer? b with
    | none => simp [hy]
    | some y =>
      have hdead : ¬ (y.state = .gathering ∧ y.linger.isSome = true) := fun h => (hno y hy).elim (fun k => k h.1) fun k => by
        simp [k] at h
      simp [hy, hdead]
  · have hexec : exec (.lingerExpiry b) s = .next (s.newEvent.closeBuffer b).conclude := by
      rw [exec, execLingerExpiry]
      refine s.react_some _ _ hrst ?_
      simp [hy, hgathering, Option.isSome_iff_ne_none.2 hlinger]
    obtain ⟨hframe, hbuffer, hothers, hchannel⟩ := State.closeBuffer_gathering (s := s.newEvent) hy hgathering
    exact ⟨_, hexec, hframe, hbuffer, hothers, hchannel⟩
  · have hpoll : (s.device d).state.pollAsk = some p := by
      rcases hask with ⟨h, rfl⟩ | ⟨h, rfl⟩ <;> rw [h] <;> rfl
    have hexec : exec (.pollTimerExpiry d) s
        = .next ((s.newEvent.mapDevice d fun r => { r with pollTimer := false }).queueItem d (.ask p)).conclude := by
      rw [exec, execPollTimerExpiry]
      refine s.react_some _ _ hrst ?_
      simp [htimer, hpoll]
    exact ⟨_, _, hexec, State.mapDevice_becomes _ _ _, State.queueItem_queues _ _ _⟩
  · rw [exec, execPollTimerExpiry]
    exact s.react_none _ (by simp [htimer])
  · rw [exec, execWakeLimitExpiry]
    exact ⟨_, s.react_some _ _ hrst (if_pos ⟨hwaking, Option.isSome_iff_ne_none.2 hlimit⟩), rfl⟩
  · rw [exec, execWakeLimitExpiry]
    refine s.react_none _ (if_neg fun h => ?_)
    exact hno.elim (fun k => k h.1) fun k => Option.isSome_iff_ne_none.1 h.2 k
  · rw [exec, execCycleTimerExpiry]
    exact ⟨_, s.react_some _ _ hrst (if_pos ⟨Option.isSome_iff_ne_none.2 htimer, hcycle⟩), rfl⟩
  · rw [exec, execCycleTimerExpiry]
    exact s.react_none _ (if_neg fun h => Option.isSome_iff_ne_none.1 h.1 hno)

/-! ### Durable orders -/

/-- Settles O41: the order that is due, its result, and the Loader's knowledge. -/
theorem durableOrderEnds : Obligations.DurableOrderEnds := by
  intro s e x hrst hx hdurable hheld hprogress holdest
  have hdue : s.durableDue = some e := by
    refine oldestBy_is _ _ _ ((s.mem_entriesWhere _ e).2 ⟨x, hx, by simp [hdurable, hheld, hprogress]⟩) fun e' hmem hne => ?_
    obtain ⟨y, hy, hp⟩ := (s.mem_entriesWhere _ e').1 hmem
    simp only [Bool.and_eq_true, decide_eq_true_eq] at hp
    obtain ⟨⟨hyd, hyh⟩, hyp⟩ := hp
    exact holdest e' y hne hy hyd hyh hyp
  have hexec : exec .durableOrderEnd s = .next (s.newEvent.endDurable e).conclude := by
    rw [exec, execDurableOrderEnd]
    exact s.react_some _ (fun v => v.durableDue.map v.endDurable) hrst (congrArg (Option.map s.newEvent.endDurable) hdue)
  have hentry (e' : EntryId) := s.newEvent.entry_endDurable e e'
  have hjoin : s.newEvent.joinNow [e] = [e] := rfl
  have hframe := s.newEvent.endDurable_frame e x hx
  rw [hjoin] at hframe
  have hx' : s.newEvent.entry? e = some x := hx
  refine ⟨_, hexec, ?_, ⟨?_, ?_, fun e' hne => (hentry e').trans (if_neg hne), ?_⟩, ?_⟩
  · rw [hframe]
  · rw [hentry, if_pos rfl, hx']
    rfl
  · rw [hframe]
    rfl
  · rw [hframe]
    rfl
  · rw [hframe]
    cases x.store <;> rfl

/-! ### Results nobody waits for -/

/-- Settles O51: transfers given up, then dropped frames by their content. -/
theorem unusedResultsDiscarded : Obligations.UnusedResultsDiscarded := by
  refine ⟨fun s x e hlive hbus hgiven => ⟨fun r hjob hready => ⟨_, ?_, rfl⟩, fun r hjob hready => ⟨_, ?_, rfl⟩⟩,
    fun s c f i hrst hframe hdropped hi => ?_⟩
  · have hkind : Job.isWriteData x.job = true := by rw [hjob]; rfl
    rw [exec, execWriteDataReadEnd, State.react_burst hlive hbus hkind hready]
    cases r with
    | complete words => simp only [hgiven, if_true]; rfl
    | hostFault f => simp only [State.routeFault, hgiven, if_true]; rfl
  · have hkind : Job.isReadData x.job = true := by rw [hjob]; rfl
    rw [exec, execReadDataStoreEnd, State.react_burst hlive hbus hkind hready]
    cases r with
    | complete => simp only [hgiven, if_true]; rfl
    | hostFault f => simp only [State.routeFault, hgiven, if_true]; rfl
  · have hover := s.frameOver c
    cases hcontent : f.content with
    | programStart b a bytes =>
      rw [hcontent] at hi
      cases hi
      exact ⟨_, State.frame_discarded FrameContent.isStart (fun v d _ => v.loadEnded d) hrst hframe hdropped (by rw [hcontent]; rfl), hover⟩
    | ask p =>
      rw [hcontent] at hi
      cases p with
      | confirming =>
        obtain ⟨st, rfl⟩ := hi
        exact ⟨_, State.frame_discarded (FrameContent.isAsk .confirming) (fun v d _ => v.confirmed d (answerOf st)) hrst hframe hdropped
          (FrameContent.isAsk_self hcontent), hover⟩
      | poll =>
        obtain ⟨st, rfl⟩ := hi
        exact ⟨_, State.frame_discarded (FrameContent.isAsk .poll) (fun v d _ => v.polled d (answerOf st)) hrst hframe hdropped
          (FrameContent.isAsk_self hcontent), hover⟩
      | wake =>
        obtain ⟨st, rfl⟩ := hi
        exact ⟨_, State.frame_discarded (FrameContent.isAsk .wake) (fun v d _ => v.wakeAnswered d (answerOf st)) hrst hframe hdropped
          (FrameContent.isAsk_self hcontent), hover⟩
      | revive e =>
        obtain ⟨st, rfl⟩ := hi
        exact ⟨_, State.frame_discarded FrameContent.isRevive (fun v d e => v.reviveAnswered d e (answerOf st)) hrst hframe hdropped
          (by rw [hcontent]; rfl), hover⟩
    | stream p address n =>
      rw [hcontent] at hi
      cases p with
      | fillRead b =>
        obtain ⟨bytes, rfl⟩ := hi
        exact ⟨_, State.frame_discarded FrameContent.isFill (fun v d p => v.filled d p.1 (clocked p.2 bytes)) hrst hframe hdropped
          (by rw [hcontent]; rfl), hover⟩
      | verifyRead b =>
        obtain ⟨bytes, rfl⟩ := hi
        exact ⟨_, State.frame_discarded FrameContent.isVerify (fun v _ p => v.verified p.1 (clocked p.2 bytes)) hrst hframe hdropped
          (by rw [hcontent]; rfl), hover⟩
      | hostRead e =>
        obtain ⟨bytes, rfl⟩ := hi
        exact ⟨_, State.frame_discarded FrameContent.isHostRead (fun v _ p => v.hostReadEnded p.1 (clocked p.2 bytes)) hrst hframe
          hdropped (by rw [hcontent]; rfl), hover⟩
      | copyRead k =>
        cases k with
        | a =>
          obtain ⟨rfl, bytes, rfl⟩ := hi
          exact ⟨_, State.frame_discarded (FrameContent.isCopy .a) (fun v _ _ => v.copyARead (clocked 256 bytes)) hrst hframe hdropped
            (by rw [hcontent]; rfl), hover⟩
        | b =>
          obtain ⟨rfl, bytes, rfl⟩ := hi
          exact ⟨_, State.frame_discarded (FrameContent.isCopy .b) (fun v _ _ => v.copyBRead (clocked 256 bytes)) hrst hframe hdropped
            (by rw [hcontent]; rfl), hover⟩

end Sys2Proof.Machine
end

section
/-! PROOFS. Sources of a read, stream reads and the profile copies (R51, R53, R59, R119, R122, R146 to R149): the obligations
NewestBufferSuppliesByte, HostReadFrameEnds, FillAndVerifyReads and ProfileCopiesJudgedAndChosen. -/

namespace Sys2Proof.Machine

/-! ### Sources -/

theorem State.bufferAge_lt (s : State) (b : BufferId) : s.bufferAge b < 4294967296 := by
  unfold State.bufferAge
  split
  · exact BitVec.isLt _
  · omega

/-- R119: the buffers that hold a place valid. -/
theorem State.mem_holders (s : State) (b : BufferId) (d : DevicePos) (page off : Nat) :
    (b ∈ s.buffersWhere fun y => y.device = d && y.page = page && (y.image.getD off none).isSome)
      ↔ ∃ v, s.BufferHolds b d page off v := by
  have hplace (y : Buffer) : (y.image.getD off none).isSome = true ↔ ∃ v, y.image[off]? = some (some v) := by
    rw [List.getD_eq_getElem?_getD, Option.isSome_iff_exists]
    cases h : y.image[off]? with
    | none => simp
    | some o => simp
  rw [State.mem_buffersWhere]
  simp only [Bool.and_eq_true, decide_eq_true_eq, hplace]
  constructor
  · rintro ⟨y, hy, ⟨hdevice, hpage⟩, v, hv⟩
    exact ⟨v, y, hy, hdevice, hpage, hv⟩
  · rintro ⟨v, y, hy, hdevice, hpage, hv⟩
    exact ⟨y, hy, ⟨hdevice, hpage⟩, v, hv⟩

/-- R119: the byte is that of the newest of the buffers that hold it. -/
theorem State.newestByte_spec (s : State) (d : DevicePos) (page off : Nat) :
    (s.newestByte d page off = none ↔ ∀ b v, ¬ s.BufferHolds b d page off v)
    ∧ ∀ v, s.newestByte d page off = some v → ∃ b, s.BufferHolds b d page off v
        ∧ ∀ b' v', s.BufferHolds b' d page off v' → s.bufferAge b ≤ s.bufferAge b' := by
  have hmem (b : BufferId) := s.mem_holders b d page off
  unfold State.newestByte
  generalize (s.buffersWhere fun y => y.device = d && y.page = page && (y.image.getD off none).isSome) = holders at hmem
  dsimp only
  cases hnewest : oldestBy (fun b => 4294967296 - s.bufferAge b) holders with
  | none =>
    rw [oldestBy_none] at hnewest
    subst hnewest
    exact ⟨⟨fun _ b v h => absurd ((hmem b).2 ⟨v, h⟩) List.not_mem_nil, fun _ => rfl⟩, fun v h => (nomatch h)⟩
  | some b =>
    obtain ⟨hb, hmax⟩ := oldestBy_some _ _ _ hnewest
    obtain ⟨v, y, hy, hdevice, hpage, hv⟩ := (hmem b).1 hb
    have hbyte : (s.buffer? b).bind (fun y => y.image.getD off none) = some v := by
      rw [hy, Option.bind_some, List.getD_eq_getElem?_getD, hv]
      rfl
    dsimp only
    rw [hbyte]
    refine ⟨⟨fun h => (nomatch h), fun h => absurd ⟨y, hy, hdevice, hpage, hv⟩ (h b v)⟩, fun v' hv' => ?_⟩
    cases hv'
    refine ⟨b, ⟨y, hy, hdevice, hpage, hv⟩, fun b' v' h' => ?_⟩
    have hle := hmax b' ((hmem b').2 ⟨v', h'⟩)
    have := s.bufferAge_lt b
    have := s.bufferAge_lt b'
    omega

theorem State.spanSources_length (s : State) (d : DevicePos) (sp : Span) : (s.spanSources d sp).length = sp.length := by
  simp [State.spanSources]

/-- Settles O38. -/
theorem newestBufferSuppliesByte : Obligations.NewestBufferSuppliesByte := by
  intro s d sp i hi
  refine ⟨s.newestByte d (sp.address / s.pageSize d) (sp.address % s.pageSize d + i), ?_, s.newestByte_spec _ _ _⟩
  simp [State.spanSources, List.getElem?_range hi]

/-! ### Bytes clocked in -/

theorem clocked_length (n : Nat) (bytes : List Byte) : (clocked n bytes).length = n := by simp [clocked]

/-- R53, R59: what the device drove, FFh where it drove none. -/
theorem clocked_get (n : Nat) (bytes : List Byte) (i : Nat) (hi : i < n) : (clocked n bytes)[i]? = some (bytes.getD i 0xFF) := by
  rw [clocked, List.getElem?_take_of_lt hi, List.getD_eq_getElem?_getD]
  by_cases h : i < bytes.length
  · rw [List.getElem?_append_left h, List.getElem?_eq_getElem h]
    rfl
  · have hlong : bytes.length ≤ i := Nat.le_of_not_lt h
    rw [List.getElem?_append_right hlong, List.getElem?_replicate, if_pos (by omega), List.getElem?_eq_none hlong]
    rfl

theorem clocked_eq (n : Nat) (bytes read : List Byte) (hlength : read.length = n) (hread : ∀ i < n, read[i]? = some (bytes.getD i 0xFF)) :
    clocked n bytes = read := by
  refine List.ext_getElem? fun i => ?_
  by_cases hi : i < n
  · rw [clocked_get n bytes i hi, hread i hi]
  · rw [List.getElem?_eq_none (by rw [clocked_length]; omega), List.getElem?_eq_none (by omega)]

/-! ### Host reads -/

/-- R122: the mark of one byte of the span. -/
theorem overlayByte_eq (source returned : Option Byte) (mark : Staged) : overlayByte source returned mark = match source with
    | some b => .fromBuffer b
    | none => match returned with
      | some b => .fromDevice b
      | none => match mark with | .fromDevice b => .fromDevice b | _ => .needed := by
  cases source <;> cases returned <;> rfl

/-- R122: the marks of the span after a frame, byte by byte. -/
def State.overlayMarks (s : State) (a : ActiveRead) (d : DevicePos) (lo : Nat) (bytes : List Byte) : List Staged :=
  List.zipWith (fun p m => overlayByte p.1 p.2 m) (List.zip (s.spanSources d a.span)
    ((List.range a.span.length).map fun i => if lo ≤ i ∧ i < lo + bytes.length then bytes[i - lo]? else none)) a.staging

theorem State.overlayRead_eq (s : State) (a : ActiveRead) (x : Entry) (lo : Nat) (bytes : List Byte) :
    s.overlayRead a x lo bytes = if .needed ∈ s.overlayMarks a x.position lo bytes
      then (s.setActive (some { a with staging := s.overlayMarks a x.position lo bytes })).askDevice a.entry x.position
      else s.assemble a x (s.overlayMarks a x.position lo bytes) := by
  have hany (l : List Staged) : l.any (fun m => decide (m = .needed)) = true ↔ .needed ∈ l := by simp
  unfold State.overlayRead State.overlayMarks
  simp only [hany]

theorem State.overlayMarks_length (s : State) (a : ActiveRead) (d : DevicePos) (lo : Nat) (bytes : List Byte)
    (hstaging : a.staging.length = a.span.length) : (s.overlayMarks a d lo bytes).length = a.span.length := by
  simp [State.overlayMarks, s.spanSources_length, hstaging]

theorem State.overlayMarks_get (s : State) (a : ActiveRead) (d : DevicePos) (lo : Nat) (bytes : List Byte) (i : Nat) (o : Option Byte)
    (m : Staged) (ho : (s.spanSources d a.span)[i]? = some o) (hm : a.staging[i]? = some m) :
    (s.overlayMarks a d lo bytes)[i]? = some (overlayByte o (if lo ≤ i ∧ i < lo + bytes.length then bytes[i - lo]? else none) m) := by
  have hi : i < a.span.length := by
    rw [← s.spanSources_length d a.span]
    exact (List.getElem?_eq_some_iff.1 ho).1
  have hzip : (List.zip (s.spanSources d a.span) ((List.range a.span.length).map fun i =>
      if lo ≤ i ∧ i < lo + bytes.length then bytes[i - lo]? else none))[i]?
        = some (o, if lo ≤ i ∧ i < lo + bytes.length then bytes[i - lo]? else none) :=
    List.getElem?_zip_eq_some.2 ⟨ho, by rw [List.getElem?_map, List.getElem?_range hi]; rfl⟩
  rw [State.overlayMarks, List.getElem?_zipWith, hzip, hm]

/-- Settles O39: the overlay byte by byte, then assembled or asked again. -/
theorem hostReadFrameEnds : Obligations.HostReadFrameEnds := by
  intro s c f a x k address n bytes hrst hframe hused hcontent hactive hassembled hx hread hstaging haddress
  have hkind : FrameContent.isHostRead f.content = some (address, n) := by rw [hcontent]; rfl
  have hexec := State.frame_answers FrameContent.isHostRead (fun v _ p => v.hostReadEnded p.1 (clocked p.2 bytes)) hrst hframe hused hkind
  have hposition : x.position = x.record.position := by simp [Entry.position, hread]
  have hhand : (s.newEvent.freeChannel c).readInHand = some (a, x) := State.readInHand_is hactive hx
  have hact : (s.newEvent.freeChannel c).hostReadEnded address (clocked n bytes)
      = (s.newEvent.freeChannel c).overlayRead a x (address - a.span.address) (clocked n bytes) := by
    rw [State.hostReadEnded, hhand]
  rw [State.overlayRead_eq, hposition] at hact
  dsimp only at hexec
  rw [hact] at hexec
  refine ⟨_, _, (s.newEvent.freeChannel c).overlayMarks a x.record.position (address - a.span.address) (clocked n bytes), hexec,
    s.frameOver c, State.overlayMarks_length _ a _ _ _ hstaging, fun i o m ho hm => ?_, fun hnone => ?_, fun hsome => ?_⟩
  · rw [(s.newEvent.freeChannel c).overlayMarks_get a x.record.position (address - a.span.address) (clocked n bytes) i o m ho hm,
      clocked_length, overlayByte_eq]
    cases o with
    | some b => rfl
    | none =>
      dsimp only
      by_cases hrange : address - a.span.address ≤ i ∧ i < address - a.span.address + n
      · rw [if_pos hrange, if_pos hrange, clocked_get n bytes _ (by omega)]
      · rw [if_neg hrange, if_neg hrange] <;> rfl
  · rw [if_neg hnone]
    exact State.assemble_assembles _ a x _ hx hread
  · rw [if_pos hsome]
    exact State.askDevice_asks _ { a with staging := _ } x x.record.position hx hassembled

/-! ### Gap fills and verify reads -/

/-- R53: the holes of the span are filled, place by place. -/
theorem fillHoles_get (image : List (Option Byte)) (lo : Nat) (read : List Byte) (h : lo + read.length ≤ image.length) (i : Nat)
    (hi : i < image.length) : (fillHoles image lo read)[i]? =
      if lo ≤ i ∧ i < lo + read.length ∧ image[i]? = some none then some (read[i - lo]?) else image[i]? := by
  have htake : (image.take lo).length = lo := by simp; omega
  have hslice : (imageSlice image lo read.length).length = read.length := by simp [imageSlice]; omega
  have hzip : (List.zipWith (fun old new => some (old.getD new)) (imageSlice image lo read.length) read).length = read.length := by
    simp [hslice]
  rw [fillHoles, List.append_assoc]
  by_cases hlow : i < lo
  · rw [List.getElem?_append_left (by omega), List.getElem?_take_of_lt hlow, if_neg (by omega)]
  rw [List.getElem?_append_right (by omega), htake]
  by_cases hmid : i < lo + read.length
  · rw [List.getElem?_append_left (by omega), List.getElem?_zipWith, imageSlice, List.getElem?_take_of_lt (by omega),
      List.getElem?_drop, Nat.add_sub_cancel' (by omega), List.getElem?_eq_getElem hi, List.getElem?_eq_getElem (by omega)]
    cases himage : image[i] with
    | none => simp; omega
    | some v => simp
  · rw [List.getElem?_append_right (by omega), hzip, List.getElem?_drop, if_neg (by omega)]
    congr 1
    omega

theorem fillHoles_length (image : List (Option Byte)) (lo : Nat) (read : List Byte) (h : lo + read.length ≤ image.length) :
    (fillHoles image lo read).length = image.length := by
  simp [fillHoles, imageSlice]
  omega

/-- R59: the span as read back is that of the buffer. -/
theorem spanPlaces_eq_iff (y : Buffer) (lo n : Nat) (read : List Byte) (hlo : lo = y.image.findIdx (·.isSome))
    (hn : n = y.image.length - y.image.reverse.findIdx (·.isSome) - lo) (hread : read.length = n) :
    y.spanPlaces = read.map some ↔ ∀ i < n, y.image[lo + i]? = some (read[i]?) := by
  have hplaces (k : Nat) : y.spanPlaces[k]? = if k < n then y.image[lo + k]? else none := by
    rw [Buffer.spanPlaces_get, hn, hlo]
    rfl
  constructor
  · intro h i hi
    have hplace := hplaces i
    rw [if_pos hi, h, List.getElem?_map, List.getElem?_eq_getElem (by omega)] at hplace
    rw [← hplace, List.getElem?_eq_getElem (by omega)]
    rfl
  · intro h
    refine List.ext_getElem? fun i => ?_
    rw [hplaces, List.getElem?_map]
    split
    · next hi =>
      rw [h i hi, List.getElem?_eq_getElem (by omega)]
      rfl
    · next hi => rw [List.getElem?_eq_none (by omega), Option.map_none]

/-- Two changes of one buffer, one after another. -/
theorem State.BufferBecomes.trans {s u v : State} {b : BufferId} {y z : Buffer} (h : s.BufferBecomes u b y) (h' : u.BufferBecomes v b z) :
    s.BufferBecomes v b z := by
  obtain ⟨hframe, -, hothers⟩ := h
  obtain ⟨hframe', hbuffer, hothers'⟩ := h'
  refine ⟨?_, hbuffer, fun b' hne => (hothers' b' hne).trans (hothers b' hne)⟩
  rw [hframe', hframe]

/-- Settles O49: the fill, then the comparison. -/
theorem fillAndVerifyReads : Obligations.FillAndVerifyReads := by
  intro s c f b y address n bytes hrst hframe hused hchannel hy hdevice lo hlo hfits read hlength hread
  have hclocked := clocked_eq n bytes read hlength hread
  refine ⟨fun hcontent => ?_, fun hcontent hn => ?_⟩
  · have hkind : FrameContent.isFill f.content = some (b, n) := by rw [hcontent]; rfl
    have hexec := State.frame_answers FrameContent.isFill (fun v d p => v.filled d p.1 (clocked p.2 bytes)) hrst hframe hused hkind
    dsimp only at hexec
    rw [hclocked] at hexec
    have hfits' : lo + read.length ≤ y.image.length := by rw [hlength]; exact hfits
    have hfilled := (s.newEvent.freeChannel c).mapBuffer_becomes b y (fun y => { y with
      image := fillHoles y.image (imageBounds y.image).1 read }) hy
    have hstarted := State.mapBuffer_becomes _ b _ (fun y => { y with state := .programming }) hfilled.2.1
    refine ⟨_, _, _, fillHoles y.image lo read, hexec, s.frameOver c, fillHoles_length _ _ _ hfits', fun i hi => ?_, ?_,
      State.queueItem_queues _ _ _⟩
    · rw [fillHoles_get _ _ _ hfits' i hi, hlength]
    · rw [hlo]
      exact hfilled.trans hstarted
  · have hkind : FrameContent.isVerify f.content = some (b, n) := by rw [hcontent]; rfl
    have hexec := State.frame_answers FrameContent.isVerify (fun v _ p => v.verified p.1 (clocked p.2 bytes)) hrst hframe hused hkind
    dsimp only at hexec
    rw [hclocked] at hexec
    have hmatch := spanPlaces_eq_iff y lo n read hlo hn hlength
    have hy' : (s.newEvent.freeChannel c).buffer? b = some y := hy
    refine ⟨_, _, hexec, s.frameOver c, fun hsame => ?_, fun hdiffers => ?_⟩
    · rw [State.verified, hy']
      dsimp only
      rw [if_pos (hmatch.2 hsame), ← hdevice]
      exact State.succeed_succeeds _ b y hy'
    · rw [State.verified, hy']
      dsimp only
      rw [if_neg fun h => hdiffers (hmatch.1 h)]
      exact State.failAttempt_fails _ b y .verify hy'

/-! ### The choice of a copy -/

/-- R31, R40: a position that a geometry makes present wakes. -/
def State.wakeNew (gs : Vector (Option Geometry) 8) (t : State) (d : DevicePos) : State :=
  t.geometryChanged d false (gs[d]).isSome

theorem State.wake_wakes {t : State} {d : DevicePos} {g : Geometry} (h : t.loader.geometry[d] = some g) :
    t.wake d = (t.mapDevice d fun r => r.wakes g).queueItem d (.ask .wake) := by
  have htimeout : t.cycleTimeout d = g.cycleTimeout := by simp [State.cycleTimeout, h]
  rw [State.wake, htimeout]
  rfl

/-- R31, R149: the record of a position that was not present, once the choice has given it this geometry. -/
def DeviceRecord.wakesIf (r : DeviceRecord) : Option Geometry → DeviceRecord
  | some g => r.wakes g
  | none => r

/-- R31: the asks of positions that wake, in the order of the list. -/
def wakeItems (l : List DevicePos) (event : Nat) : List WorkItem := l.map fun d => ⟨d, .ask .wake, event⟩

theorem State.device_wakeStep (t : State) (a d : DevicePos) (g : Geometry) :
    ((t.mapDevice a fun r => r.wakes g).queueItem a (.ask .wake)).device d = if d = a then (t.device a).wakes g else t.device d := by
  obtain ⟨-, hdevice, hothers⟩ := t.mapDevice_becomes a fun r => r.wakes g
  by_cases h : d = a
  · rw [if_pos h, h]
    exact hdevice
  · rw [if_neg h]
    exact hothers d h

/-- R149: the positions of a list that the geometry makes present wake, one after another. -/
theorem State.wakeNew_all (gs : Vector (Option Geometry) 8) (l : List DevicePos) (hl : l.Nodup) (t : State)
    (hgs : t.loader.geometry = gs) :
    l.foldl (State.wakeNew gs) t = { t with
      devices := (l.foldl (State.wakeNew gs) t).devices, channels := (l.foldl (State.wakeNew gs) t).channels }
    ∧ (∀ d : DevicePos, (l.foldl (State.wakeNew gs) t).device d = if d ∈ l then (t.device d).wakesIf gs[d] else t.device d)
    ∧ ∀ c, (l.foldl (State.wakeNew gs) t).channel c = { t.channel c with
        waiting := (t.channel c).waiting ++ wakeItems (l.filter fun d => (gs[d]).isSome ∧ channelOf d = c) t.event } := by
  induction l generalizing t with
  | nil => exact ⟨rfl, fun d => by simp, fun c => by simp [wakeItems]⟩
  | cons a l ih =>
    obtain ⟨hnot, hnodup⟩ := List.nodup_cons.1 hl
    rw [List.foldl_cons]
    cases hg : gs[a] with
    | none =>
      have hstep : State.wakeNew gs t a = t := by
        rw [State.wakeNew, hg]
        rfl
      obtain ⟨hframe, hdevice, hchannel⟩ := ih hnodup t hgs
      rw [hstep]
      refine ⟨hframe, fun d => ?_, fun c => ?_⟩
      · rw [hdevice]
        by_cases hd : d = a
        · subst hd
          simp [hnot, hg, DeviceRecord.wakesIf]
        · simp [hd]
      · rw [hchannel, List.filter_cons_of_neg (by simp [hg])]
    | some g =>
      have hstep : State.wakeNew gs t a = (t.mapDevice a fun r => r.wakes g).queueItem a (.ask .wake) := by
        rw [State.wakeNew, hg]
        exact State.wake_wakes (hgs ▸ hg)
      have hqueue := (State.queueItem_queues (t.mapDevice a fun r => r.wakes g) a (.ask .wake)).2
      obtain ⟨hframe, hdevice, hchannel⟩ := ih hnodup _ (show ((t.mapDevice a fun r => r.wakes g).queueItem a (.ask .wake)).loader.geometry
        = gs from hgs)
      rw [hstep]
      refine ⟨hframe, fun d => ?_, fun c => ?_⟩
      · rw [hdevice, State.device_wakeStep]
        by_cases hd : d = a
        · subst hd
          simp [hnot, hg, DeviceRecord.wakesIf]
        · simp [hd]
      · rw [hchannel, hqueue]
        by_cases hc : channelOf a = c
        · rw [List.filter_cons_of_pos (by simp [hg, hc]), if_pos hc.symm]
          simp only [wakeItems, List.map_cons, List.append_assoc, List.singleton_append]
          rfl
        · rw [List.filter_cons_of_neg (by simp [hg, hc]), if_neg fun h => hc h.symm]
          rfl

/-- R149: everything a choice does: copy in use, generation, geometry and zones, and the positions from 1 on that it makes present. -/
theorem State.applyProfile_applies (s : State) (used : Option CopyId) (generation : BitVec 32) (gs : Vector (Option Geometry) 8)
    (zones : Vector (Option Zone) 16) (hnone : ∀ d : DevicePos, d ≠ 0 → s.loader.geometry[d] = none) :
    s.applyProfile used generation gs zones = { s with
      loader := { s.loader with geometry := gs, inUse := used, generation, phase := some .wakeRest, judgedA := none }
      zones := { s.zones with entries := zones }, devices := (s.applyProfile used generation gs zones).devices
      channels := (s.applyProfile used generation gs zones).channels }
    ∧ (s.applyProfile used generation gs zones).device 0 = s.device 0
    ∧ (∀ d : DevicePos, d ≠ 0 → (s.applyProfile used generation gs zones).device d = (s.device d).wakesIf gs[d])
    ∧ ∀ c, (s.applyProfile used generation gs zones).channel c = { s.channel c with
        waiting := (s.channel c).waiting
          ++ wakeItems ((List.finRange 8).filter fun d => d ≠ 0 ∧ (gs[d]).isSome = true ∧ channelOf d = c) s.event } := by
  have happly : s.applyProfile used generation gs zones = ([1, 2, 3, 4, 5, 6, 7] : List DevicePos).foldl (State.wakeNew gs) { s with
      loader := { s.loader with geometry := gs, inUse := used, generation, phase := some .wakeRest, judgedA := none }
      zones := { s.zones with entries := zones } } := by
    refine List.foldl_ext _ _ _ fun t d hd => ?_
    have hd0 : d ≠ 0 := by rintro rfl; revert hd; decide
    rw [hnone d hd0]
    rfl
  obtain ⟨hframe, hdevice, hchannel⟩ := State.wakeNew_all gs [1, 2, 3, 4, 5, 6, 7] (by decide) { s with
      loader := { s.loader with geometry := gs, inUse := used, generation, phase := some .wakeRest, judgedA := none }
      zones := { s.zones with entries := zones } } rfl
  rw [happly]
  refine ⟨hframe, (hdevice 0).trans (if_neg (by decide)), fun d hd => (hdevice d).trans (if_pos ?_), fun c => (hchannel c).trans ?_⟩
  · exact (show ∀ d : DevicePos, d ≠ 0 → d ∈ ([1, 2, 3, 4, 5, 6, 7] : List DevicePos) by decide) d hd
  · have hlist : ([1, 2, 3, 4, 5, 6, 7] : List DevicePos) = (List.finRange 8).filter fun d => d ≠ 0 := by decide
    have hfilter : ([1, 2, 3, 4, 5, 6, 7] : List DevicePos).filter (fun d => (gs[d]).isSome ∧ channelOf d = c)
        = (List.finRange 8).filter fun d => d ≠ 0 ∧ (gs[d]).isSome = true ∧ channelOf d = c := by
      rw [hlist, List.filter_filter]
      exact List.filter_congr fun d _ => by simp [Bool.and_comm]
    rw [hfilter]
    rfl

/-- A choice of the profile: copy in use, generation, geometry, zones, what the Loader then knows of the two copies, and the flag set. -/
structure ProfileChoice where
  used : Option CopyId
  generation : BitVec 32
  geometry : Vector (Option Geometry) 8
  zones : Vector (Option Zone) 16
  copyA : Option (BitVec 32)
  copyB : Option (BitVec 32)
  fault : BitVec 9

/-- R149: `u` is `s` after this choice. -/
structure State.TakesChoice (s u : State) (k : ProfileChoice) : Prop where
  frame : u = { s with
    loader := { s.loader with
      geometry := k.geometry, inUse := k.used, generation := k.generation, phase := some .wakeRest, judgedA := none
      copyA := k.copyA, copyB := k.copyB }
    zones := { s.zones with entries := k.zones }, devices := u.devices, channels := u.channels
    host := { s.host with fault := s.host.fault ||| k.fault } }
  first : u.device 0 = s.device 0
  others : ∀ d : DevicePos, d ≠ 0 → u.device d = (s.device d).wakesIf k.geometry[d]
  asks : ∀ c, u.channel c = { s.channel c with
    waiting := (s.channel c).waiting
      ++ wakeItems ((List.finRange 8).filter fun d => d ≠ 0 ∧ (k.geometry[d]).isSome = true ∧ channelOf d = c) s.event }

/-- R149: a choice is applied, and the flag of a missing copy set. -/
theorem State.applyProfile_takes (s : State) (k : ProfileChoice) (hnone : ∀ d : DevicePos, d ≠ 0 → s.loader.geometry[d] = none) (u : State)
    (hu : u = State.applyProfile { s with loader := { s.loader with copyA := k.copyA, copyB := k.copyB } } k.used k.generation k.geometry
      k.zones) :
    s.TakesChoice { u with host := { u.host with fault := u.host.fault ||| k.fault } } k := by
  obtain ⟨hframe, hfirst, hothers, hasks⟩ := State.applyProfile_applies
    { s with loader := { s.loader with copyA := k.copyA, copyB := k.copyB } } k.used k.generation k.geometry k.zones hnone
  rw [← hu] at hframe hfirst hothers hasks
  refine ⟨?_, hfirst, hothers, hasks⟩
  have hhost : u.host = s.host := (congrArg State.host hframe).trans rfl
  rw [hhost]
  exact congrArg (fun v : State => { v with host := { s.host with fault := s.host.fault ||| k.fault } }) hframe

/-- R147, R149: what is chosen, by the judgements of the two copies. -/
def profileChoice (l : Loader) : Option Profile → Option Profile → ProfileChoice
  | none, none => ⟨none, 0, defaultGeometry l.bootWidth, Vector.replicate 16 none, none, none, 0b000100000⟩
  | some p, none => ⟨some .a, p.generation, p.geometry, p.zones, l.copyA, l.copyB, 0b001000000⟩
  | none, some p => ⟨some .b, p.generation, p.geometry, p.zones, l.copyA, l.copyB, 0b001000000⟩
  | some p, some q =>
    if p.generation.toNat < q.generation.toNat then ⟨some .b, q.generation, q.geometry, q.zones, l.copyA, l.copyB, 0⟩
    else ⟨some .a, p.generation, p.geometry, p.zones, l.copyA, l.copyB, 0⟩

theorem State.chooseProfile_takes (s : State) (a b : Option Profile) (hnone : ∀ d : DevicePos, d ≠ 0 → s.loader.geometry[d] = none) :
    s.TakesChoice (s.chooseProfile a b) (profileChoice s.loader a b) := by
  have hnoFault (u : State) : { u with host := { u.host with fault := u.host.fault ||| 0 } } = u := by simp
  match a, b with
  | none, none => exact s.applyProfile_takes (profileChoice s.loader none none) hnone _ rfl
  | some p, none => exact s.applyProfile_takes (profileChoice s.loader (some p) none) hnone _ rfl
  | none, some p => exact s.applyProfile_takes (profileChoice s.loader none (some p)) hnone _ rfl
  | some p, some q =>
    rw [State.chooseProfile, profileChoice]
    split
    · have htakes := s.applyProfile_takes ⟨some .b, q.generation, q.geometry, q.zones, s.loader.copyA, s.loader.copyB, 0⟩ hnone _ rfl
      rw [hnoFault] at htakes
      exact htakes
    · have htakes := s.applyProfile_takes ⟨some .a, p.generation, p.geometry, p.zones, s.loader.copyA, s.loader.copyB, 0⟩ hnone _ rfl
      rw [hnoFault] at htakes
      exact htakes

/-- Settles O50. -/
theorem profileCopiesJudgedAndChosen : Obligations.ProfileCopiesJudgedAndChosen := by
  intro s f bytes k hrst hframe hused hcontent hlength judged hjudged
  have hspec := judgeCopy_spec s.loader.bootWidth bytes hlength
  rw [← hjudged] at hspec
  have hclocked : clocked 256 bytes = bytes := clocked_eq 256 bytes bytes hlength fun i hi => by
    rw [List.getD_eq_getElem?_getD, List.getElem?_eq_getElem (by omega)]
    rfl
  refine ⟨hspec.1, hspec.2, fun hk => ?_, fun hk hnone => ?_⟩
  · subst hk
    have hkind : FrameContent.isCopy .a f.content = some () := by rw [hcontent]; rfl
    have hexec : exec (.copyAReadEnd bytes) s = .next ((s.newEvent.freeChannel 0).copyARead (clocked 256 bytes)).conclude :=
      State.frame_answers (FrameContent.isCopy .a) (fun v _ _ => v.copyARead (clocked 256 bytes)) hrst hframe hused hkind
    rw [hclocked] at hexec
    refine ⟨_, _, _, hexec, s.frameOver 0, ?_, State.queueItem_queues _ _ _⟩
    rw [hjudged]
    rfl
  · subst hk
    have hkind : FrameContent.isCopy .b f.content = some () := by rw [hcontent]; rfl
    have hexec : exec (.copyBReadEnd bytes) s = .next ((s.newEvent.freeChannel 0).copyBRead (clocked 256 bytes)).conclude :=
      State.frame_answers (FrameContent.isCopy .b) (fun v _ _ => v.copyBRead (clocked 256 bytes)) hrst hframe hused hkind
    rw [hclocked] at hexec
    have hjudge : judgeCopy (s.newEvent.freeChannel 0).loader.bootWidth bytes = judged := hjudged.symm
    have hread : (s.newEvent.freeChannel 0).copyBRead bytes = State.chooseProfile { s.newEvent.freeChannel 0 with
        loader := { s.loader with copyB := judged.map Profile.generation } } s.loader.judgedA judged := by
      rw [State.copyBRead, hjudge]
      rfl
    obtain ⟨hchosen, hfirst, hothers, hasks⟩ := State.chooseProfile_takes { s.newEvent.freeChannel 0 with
        loader := { s.loader with copyB := judged.map Profile.generation } } s.loader.judgedA judged hnone
    rw [← hread] at hchosen hfirst hothers hasks
    generalize (s.newEvent.freeChannel 0).copyBRead bytes = u at hexec hchosen hfirst hothers hasks
    generalize hchoice : profileChoice _ s.loader.judgedA judged = k at hchosen hothers hasks
    have hloader : u.loader = { s.loader with
        geometry := k.geometry, inUse := k.used, generation := k.generation, phase := some .wakeRest, judgedA := none
        copyA := k.copyA, copyB := k.copyB } := (congrArg State.loader hchosen).trans rfl
    have hzones : u.zones.entries = k.zones := congrArg (fun u : State => u.zones.entries) hchosen
    have hfault : u.host.fault = s.host.fault ||| k.fault := (congrArg (fun u : State => u.host.fault) hchosen).trans rfl
    refine ⟨u, _, hexec, s.frameOver 0, ?_, by rw [hloader], by rw [hloader], by rw [hloader], fun hone => ?_, ?_, hfirst, fun d hd => ?_,
      fun c woken hwoken => ?_⟩
    · rw [hloader, hzones, hfault]
      exact hchosen
    · rw [hloader, ← hchoice]
      cases hA : s.loader.judgedA with
      | none =>
        cases judged with
        | none => rw [hA] at hone; exact absurd hone (by simp)
        | some q => exact ⟨rfl, rfl⟩
      | some p =>
        cases judged with
        | none => exact ⟨rfl, rfl⟩
        | some q =>
          rw [profileChoice]
          split <;> exact ⟨rfl, rfl⟩
    · rw [hzones, hfault, hloader, ← hchoice]
      cases s.loader.judgedA with
      | none =>
        cases judged with
        | none =>
          refine ⟨rfl, rfl, rfl, rfl, fun i => ?_, fun d => ?_, rfl⟩
          · exact Vector.getElem_replicate i.isLt
          · show (defaultGeometry s.loader.bootWidth)[d] = _
            by_cases hd : d = 0
            · rw [if_pos hd, hd]
              rfl
            · rw [if_neg hd]
              exact replicate_set_other none _ d hd
        | some q => exact ⟨rfl, rfl, rfl, rfl, rfl⟩
      | some p =>
        cases judged with
        | none => exact ⟨rfl, rfl, rfl, rfl, rfl⟩
        | some q =>
          by_cases hnewer : p.generation.toNat < q.generation.toNat
          · simp only [profileChoice, if_pos hnewer]
            exact ⟨trivial, fun r hr => hr ▸ ⟨rfl, rfl, rfl⟩, BitVec.or_zero⟩
          · simp only [profileChoice, if_neg hnewer]
            exact ⟨trivial, fun r hr => hr ▸ ⟨rfl, rfl, rfl⟩, BitVec.or_zero⟩
    · rw [hothers d hd, hloader]
      cases k.geometry[d] <;> rfl
    · rw [hasks, hwoken, hloader]
      rfl

end Sys2Proof.Machine
end

section
/-! PROOFS. FLUSH reports (R108, R109): the obligation FlushReports. -/

namespace Sys2Proof.Machine

/-- R108: what a FLUSH takes depends on the failure list and the dropped counter alone. -/
theorem State.flushTakes_congr {s u : State} {x : Entry} (h : s.pool = u.pool) : s.flushTakes x = u.flushTakes x := by
  unfold State.flushTakes
  rw [h]

theorem State.flushTakes_status (s : State) (x : Entry) :
    (s.flushTakes x).status = .ok ∨ (s.flushTakes x).status = .lateFailures := by
  unfold State.flushTakes
  dsimp only
  split
  · exact .inl rfl
  · exact .inr rfl

/-- R109: a FLUSH in the middle of the list reports what those before it have left. -/
theorem State.reportFlush_middle {s : State} {before after : List EntryId} {e : EntryId} {x : Entry}
    (hn : (before ++ e :: after).Nodup) (ho : ∀ k ∈ before ++ e :: after, s.entry? k ≠ none) (hx : s.entry? e = some x) :
    ((before ++ e :: after).foldl State.reportFlush s).entry? e
      = some { x with state := .done, result := some ((before.foldl State.reportFlush s).flushTakes x) } := by
  obtain ⟨hbefore, hrest, hapart⟩ := List.nodup_append.mp hn
  obtain ⟨hafter, hnodup⟩ := List.nodup_cons.mp hrest
  have hkept := (State.reportFlush_all before s hbefore fun k hk => ho k (by simp [hk])).1
  have hmiddle : (before.foldl State.reportFlush s).entry? e = some x :=
    (hkept e fun he => hapart e he e (by simp) rfl).trans hx
  have hentry := fun k => State.entry_reportFlush _ e k x hmiddle
  rw [List.foldl_append, List.foldl_cons]
  refine ((State.reportFlush_all after _ hnodup fun k hk => ?_).1 e hafter).trans ((hentry e).trans (if_pos rfl))
  rw [hentry, if_neg (fun (he : k = e) => hafter (he ▸ hk)), hkept k fun hb => hapart k hb k (by simp [hk]) rfl]
  exact ho k (by simp [hk])

theorem State.mem_flushesDue (s : State) (e : EntryId) :
    e ∈ s.flushesDue ↔ ∃ x, s.entry? e = some x ∧ x.kind = .flush ∧ x.state = .held ∧ x.watch = [] := by
  unfold State.flushesDue
  rw [(oldestFirst_spec _ _).1.mem_iff, State.mem_entriesWhere]
  simp [and_assoc]

/-- Settles O33: the FLUSH orders that are due report one after another. -/
theorem flushReports : Obligations.FlushReports := by
  intro s e x hrst hx hkind hstate hwatch
  have hsorted := oldestFirst_spec s.newEvent.orderAge
    (s.newEvent.entriesWhere fun x => x.kind = .flush && x.state = .held && x.watch = [])
  have hnodup : s.newEvent.flushesDue.Nodup := hsorted.1.nodup_iff.mpr (State.entriesWhere_nodup _ _)
  have hdue : ∀ k ∈ s.newEvent.flushesDue, s.newEvent.entry? k ≠ none := fun k hk => by
    obtain ⟨y, hy, -⟩ := (State.mem_flushesDue _ _).mp hk
    rw [hy]
    exact Option.some_ne_none y
  have hmem : e ∈ s.newEvent.flushesDue := (State.mem_flushesDue _ _).mpr ⟨x, hx, hkind, hstate, hwatch⟩
  have hexec : exec .flushReport s = .next s.newEvent.reportFlushes.conclude :=
    s.react_some _ (fun s => if s.flushesDue = [] then none else some s.reportFlushes) hrst (if_neg (List.ne_nil_of_mem hmem))
  obtain ⟨hothers, hpool⟩ := State.reportFlush_all _ _ hnodup hdue
  have hframe := State.reportFlush_all_frame _ _ hnodup hdue ⟨rfl, rfl⟩
  have hmiddle : ∀ before k after y, s.newEvent.flushesDue = before ++ k :: after → s.entry? k = some y →
      s.newEvent.reportFlushes.entry? k
        = some { y with state := .done, result := some ((before.foldl State.reportFlush s.newEvent).flushTakes y) } := by
    intro before k after y hl hy
    unfold State.reportFlushes
    rw [hl] at hnodup hdue ⊢
    exact State.reportFlush_middle hnodup hdue hy
  refine ⟨_, _, hexec, State.mem_flushesDue _, hnodup, hsorted.2, ?_, congrArg Pool.dropped hpool, hothers, ?_, ?_, ?_⟩
  · refine hframe.trans ?_
    unfold State.reportFlushes
    rw [hpool]
    rfl
  · intro k hk y hy
    obtain ⟨before, after, hl⟩ := List.append_of_mem hk
    exact ⟨_, hmiddle before k after y hl hy, State.flushTakes_status _ y⟩
  · intro k y hhead hy
    obtain ⟨after, hl⟩ := List.head?_eq_some_iff.mp hhead
    exact hmiddle [] k after y hl hy
  · intro before k after y hl hy
    rw [show s.newEvent.flushesDue = before ++ k :: after from hl] at hnodup hdue
    have hbefore := (State.reportFlush_all before s.newEvent hnodup.of_append_left fun j hj => hdue j (by simp [hj])).2
    rw [hmiddle before k after y hl hy, State.flushTakes_congr (u := { s with pool := _ }) hbefore]
    rfl

end Sys2Proof.Machine
end

section
/-! PROOFS. The Gather Engine's actions and the standing allocation request (R4 to R12, R98 to R102): the obligation
AllocationServed. -/

namespace Sys2Proof.Machine

/-! ### Closing, whatever the list repeats -/

theorem State.closeAll_buffer (s : State) (l : List BufferId) (b : BufferId) :
    (s.closeAll l).buffer? b = (s.buffer? b).map fun y =>
      if y.state = .gathering ∧ b ∈ l then { y with state := .closed, linger := none } else y := by
  induction l generalizing s with
  | nil => cases h : s.buffer? b <;> simp [State.closeAll, h]
  | cons a l ih =>
    have hfold : s.closeAll (a :: l) = (s.closeBuffer a).closeAll l := rfl
    rw [hfold, ih, State.closeBuffer_buffer]
    cases s.buffer? b with
    | none => rfl
    | some y =>
      by_cases hstate : y.state = .gathering <;> by_cases hba : b = a <;> simp [hstate, hba]

/-! ### The merge of a span -/

/-- R9, R100: the span's bytes are in buffer `b` and counted, and nothing is closed yet. -/
def State.spanMerged (s : State) (t : Turn) (x : Entry) (sp : Span) (bytes : List Byte) (b : BufferId) : State :=
  ((s.mapBuffer b (s.mergedBuffer t.entry x (sp.address % s.pageSize x.position) bytes)).mapEntry t.entry
    fun x => { x with progress := x.progress + sp.length }).mapTurn fun t =>
      { t with span := none, bytes := none, touched := addOnce b t.touched
               joined := if x.durable then addOnce b t.joined else t.joined }

/-- R101, R102: what the last span of an order closes. -/
def State.lastClosings (s : State) (t : Turn) (x : Entry) (b : BufferId) : List BufferId :=
  if x.durable = true then addOnce b t.joined else if s.pool.linger = 0 then addOnce b t.touched else []

/-- R9, R101, R102: what the merge of a span closes: a full page, and with the last span what the order has touched or joined. -/
def State.mergeClosings (s : State) (t : Turn) (x : Entry) (sp : Span) (b : BufferId) (full : Bool) : List BufferId :=
  (if full then [b] else []) ++ if x.total ≤ x.progress + sp.length then s.lastClosings t x b else []

section
variable {s : State} {t : Turn} {x : Entry} {sp : Span} {bytes : List Byte} {b : BufferId} {y : Buffer}

theorem mem_addOnce (b : BufferId) (l : List BufferId) : b ∈ addOnce b l := by
  unfold addOnce
  split <;> simp_all

theorem State.spanMerged_entry (e : EntryId) : (s.spanMerged t x sp bytes b).entry? e
    = if e = t.entry then (s.entry? t.entry).map fun x => { x with progress := x.progress + sp.length } else s.entry? e :=
  (s.mapBuffer b _).entry_mapEntry t.entry e _

theorem State.spanMerged_buffer (hy : s.buffer? b = some y) : (s.spanMerged t x sp bytes b).buffer? b
    = some (s.mergedBuffer t.entry x (sp.address % s.pageSize x.position) bytes y) :=
  (s.mapBuffer_becomes b y _ hy).2.1

theorem State.spanMerged_buffer_ne {b' : BufferId} (hne : b' ≠ b) :
    (s.spanMerged t x sp bytes b).buffer? b' = s.buffer? b' := s.mapBuffer_other b b' _ hne

theorem State.mem_mergedBuffer_contributors {e : EntryId} {lo : Nat} (hdurable : x.durable = true) :
    e ∈ (s.mergedBuffer e x lo bytes y).contributors := by
  unfold State.mergedBuffer
  dsimp only
  split <;> simp_all

theorem State.mem_mergeClosings (full : Bool) : b ∈ s.mergeClosings t x sp b full
    ↔ full = true ∨ x.total ≤ x.progress + sp.length ∧ (x.durable = true ∨ s.pool.linger = 0) := by
  have hlast : b ∈ s.lastClosings t x b ↔ x.durable = true ∨ s.pool.linger = 0 := by
    unfold State.lastClosings
    split
    · simp_all [mem_addOnce]
    · split <;> simp_all [mem_addOnce]
  unfold State.mergeClosings
  rw [List.mem_append]
  refine or_congr ?_ ?_
  · cases full <;> simp
  · split <;> simp_all

theorem State.last_of_mem_mergeClosings {b' : BufferId} {full : Bool} (hne : b' ≠ b) (h : b' ∈ s.mergeClosings t x sp b full) :
    x.total ≤ x.progress + sp.length := by
  by_contra hlast
  unfold State.mergeClosings at h
  rw [if_neg hlast] at h
  cases full <;> simp_all

/-- R9, R100 to R102: the merge of a span step by step: the bytes, the closings, and with the last span the end of the gather. -/
theorem State.mergeSpan_eq (hturn : s.gather.turn = some t) (hx : s.entry? t.entry = some x) (hy : s.buffer? b = some y) :
    let v := s.spanMerged t x sp bytes b
    let w := v.closeAll (s.mergeClosings t x sp b (v.pageFull b))
    s.mergeSpan t x sp bytes b = if x.total ≤ x.progress + sp.length then
        (if x.durable = true then w.mapEntry t.entry fun x => { x with state := .held, progress := ((List.finRange 16).filter
            fun b' => match w.buffer? b' with | some z => t.entry ∈ z.contributors | none => false).length }
          else w.goDone t.entry (.plain .ok x.total)).releaseTurn
      else w := by
  intro v w
  have hfull : (if v.pageFull b then v.closeBuffer b else v) = v.closeAll (if v.pageFull b then [b] else []) := by
    split <;> rfl
  have hmerge : s.mergeSpan t x sp bytes b
      = if x.total ≤ x.progress + sp.length then (v.closeAll (if v.pageFull b then [b] else [])).endGather
        else v.closeAll (if v.pageFull b then [b] else []) := by
    rw [← hfull]
    rfl
  rw [hmerge]
  by_cases hlast : x.total ≤ x.progress + sp.length
  · have hw : w = (v.closeAll (if v.pageFull b then [b] else [])).closeAll (s.lastClosings t x b) := by
      show v.closeAll _ = _
      unfold State.mergeClosings
      rw [if_pos hlast]
      exact List.foldl_append
    have hframe := v.closeAll_frame (if v.pageFull b then [b] else [])
    have hend := State.endGather_eq (v.closeAll (if v.pageFull b then [b] else []))
      { t with span := none, bytes := none, touched := addOnce b t.touched
               joined := if x.durable then addOnce b t.joined else t.joined }
      { x with progress := x.progress + sp.length }
      ((congrArg (fun s : State => s.gather.turn) hframe).trans (congrArg (Option.map _) hturn))
      ((congrArg (fun s : State => s.entry? t.entry) hframe).trans
        ((State.spanMerged_entry t.entry).trans (by rw [if_pos rfl, hx]; rfl)))
    have hlinger : (v.closeAll (if v.pageFull b then [b] else [])).pool.linger = s.pool.linger :=
      (congrArg (fun s : State => s.pool.linger) hframe).trans rfl
    have hclosings : (if Entry.durable { x with progress := x.progress + sp.length } = true
        then (if x.durable then addOnce b t.joined else t.joined)
        else if (v.closeAll (if v.pageFull b then [b] else [])).pool.linger = 0 then addOnce b t.touched else [])
        = s.lastClosings t x b := by
      rw [hlinger]
      show (if x.durable = true then _ else _) = _
      unfold State.lastClosings
      by_cases hdurable : x.durable = true
      · rw [if_pos hdurable, if_pos hdurable, if_pos hdurable]
      · rw [if_neg hdurable, if_neg hdurable]
    dsimp only at hend
    rw [hclosings, ← hw] at hend
    rw [if_pos hlast, if_pos hlast]
    refine hend ?_
    by_cases hdurable : x.durable = true
    · have hin : b ∈ (List.finRange 16).filter fun b' => match w.buffer? b' with
          | some z => t.entry ∈ z.contributors | none => false := by
        rw [List.mem_filter]
        refine ⟨List.mem_finRange b, ?_⟩
        have hmerged : v.buffer? b = _ := State.spanMerged_buffer hy
        rw [State.closeAll_buffer, hmerged]
        have hcontributes : t.entry ∈ (s.mergedBuffer t.entry x (sp.address % s.pageSize x.position) bytes y).contributors :=
          State.mem_mergedBuffer_contributors hdurable
        dsimp only [Option.map_some]
        split <;> exact decide_eq_true hcontributes
      exact .inl fun h0 => List.ne_nil_of_mem hin (List.length_eq_zero_iff.mp h0)
    · exact .inr (eq_false_of_ne_true hdurable)
  · rw [if_neg hlast, if_neg hlast]
    show _ = v.closeAll _
    unfold State.mergeClosings
    rw [if_neg hlast, List.append_nil]

/-! ### The merge into a fresh record -/

/-- R7, R9, R101: the record after the merge, closed or not. -/
theorem State.mergeSpan_frame (hturn : s.gather.turn = some t) (hx : s.entry? t.entry = some x) (hy : s.buffer? b = some y) :
    let v := s.spanMerged t x sp bytes b
    let l := s.mergeClosings t x sp b (v.pageFull b)
    let u := s.mergeSpan t x sp bytes b
    (∀ b', u.buffer? b' = (v.buffer? b').map fun z =>
        if z.state = .gathering ∧ b' ∈ l then { z with state := .closed, linger := none } else z)
    ∧ u = { s with
        orders := { u.orders with sequence := s.orders.sequence }
        gather := { s.gather with turn := if x.total ≤ x.progress + sp.length then none else v.gather.turn }
        pool := { s.pool with buffers := u.pool.buffers }
        channels := u.channels }
    ∧ (∀ e, e ≠ t.entry → u.entry? e = s.entry? e)
    ∧ u.orders.done = (if x.total ≤ x.progress + sp.length ∧ x.durable = false then s.orders.done ++ s.joinNow [t.entry]
        else s.orders.done)
    ∧ u.entry? t.entry = some (if x.total ≤ x.progress + sp.length then
        (if x.durable = true then { x with state := .held, progress := ((List.finRange 16).filter fun b' =>
            match u.buffer? b' with | some z => t.entry ∈ z.contributors | none => false).length }
          else { x with progress := x.progress + sp.length, state := .done, result := some (.plain .ok x.total) })
      else { x with progress := x.progress + sp.length }) := by
  intro v l u
  have hu : u = _ := State.mergeSpan_eq (sp := sp) (bytes := bytes) hturn hx hy
  have hbuffers := v.closeAll_buffer l
  obtain ⟨buffers, channels, hw⟩ := v.closeAll_shape l
  have hentry := fun e => State.spanMerged_entry (s := s) (t := t) (x := x) (sp := sp) (bytes := bytes) (b := b) e
  have hentry' : v.entry? t.entry = some { x with progress := x.progress + sp.length } :=
    (hentry t.entry).trans (by rw [if_pos rfl, hx]; rfl)
  rw [hw] at hu hbuffers
  by_cases hlast : x.total ≤ x.progress + sp.length
  · rw [if_pos hlast] at hu ⊢
    rw [if_pos hlast]
    by_cases hdurable : x.durable = true
    · rw [if_pos hdurable] at hu ⊢
      rw [if_neg (by simp [hdurable]), hu]
      have hheld := fun e f => State.entry_mapEntry { v with pool := { v.pool with buffers }, channels } t.entry e f
      refine ⟨hbuffers, rfl, fun e he => (hheld e _).trans ((if_neg he).trans ((hentry e).trans (if_neg he))), rfl, ?_⟩
      refine (hheld t.entry _).trans ((if_pos rfl).trans ?_)
      rw [show State.entry? { v with pool := { v.pool with buffers }, channels } t.entry = _ from hentry']
      rfl
    · rw [if_neg hdurable] at hu ⊢
      rw [if_pos ⟨hlast, eq_false_of_ne_true hdurable⟩]
      have hdone := State.goDone_done { v with pool := { v.pool with buffers }, channels } t.entry (.plain .ok x.total)
      have hends := fun e => State.entry_goDone { v with pool := { v.pool with buffers }, channels } t.entry e (.plain .ok x.total)
      have hframe := State.goDone_frame { v with pool := { v.pool with buffers }, channels } t.entry (.plain .ok x.total)
      generalize State.goDone { v with pool := { v.pool with buffers }, channels } t.entry (.plain .ok x.total) = k at *
      rw [hframe] at hu hends
      rw [hu]
      refine ⟨hbuffers, ?_, fun e he => (hends e).trans ((if_neg he).trans ((hentry e).trans (if_neg he))), hdone, ?_⟩
      · rfl
      · refine (hends t.entry).trans ((if_pos rfl).trans ?_)
        rw [show State.entry? { v with pool := { v.pool with buffers }, channels } t.entry = _ from hentry']
        rfl
  · rw [if_neg hlast] at hu ⊢
    rw [if_neg hlast, if_neg (fun h => hlast h.1), hu]
    exact ⟨hbuffers, rfl, fun e he => (hentry e).trans (if_neg he), rfl, hentry'⟩

end

/-- R5, R7: a standing request is served when no buffer of its page is CLOSED and a record is FREE. -/
theorem State.serveRequest_eq {s : State} {t : Turn} {x : Entry} {r : AllocRequest} {sp : Span} {bytes : List Byte} {b : BufferId}
    (hturn : s.gather.turn = some t) (hx : s.entry? t.entry = some x) (hrequest : s.pool.request = some r) (hspan : t.span = some sp)
    (hbytes : t.bytes = some bytes) (hclosed : s.bufferOf .closed r.device r.page = none) (hfree : s.lowestFree = some b) :
    s.serveRequest? = some (s.serveWith t x sp bytes r b) := by
  unfold State.serveRequest?
  rw [State.atTurn_is hturn hx, hrequest, hfree]
  dsimp only
  rw [hspan, hbytes, hclosed]
  rfl

/-- R5, R7, R9, R100 to R102: the first half of O40. -/
theorem exec_allocationRequestServed (s : State) (t : Turn) (x : Entry) (r : AllocRequest) (sp : Span) (bytes : List Byte)
    (b : BufferId) (hrst : s.pins.hrst = false) (hturn : s.gather.turn = some t) (hx : s.entry? t.entry = some x)
    (hrequest : s.pool.request = some r) (hspan : t.span = some sp) (hbytes : t.bytes = some bytes)
    (hclosed : ∀ b' y, s.buffer? b' = some y → y.device = r.device → y.page = r.page → y.state ≠ .closed)
    (hfree : s.buffer? b = none) (hlowest : ∀ b', b' < b → s.buffer? b' ≠ none) :
    exec .allocationRequestServed s = .next (s.newEvent.serveWith t x sp bytes r b).conclude :=
  s.react_some _ State.serveRequest? hrst (State.serveRequest_eq hturn hx hrequest hspan hbytes
    (State.bufferOf_none s.newEvent _ _ _ fun b' y hy ⟨hstate, hdevice, hpage⟩ => hclosed b' y hy hdevice hpage hstate)
    (State.lowestFree_is s.newEvent b hfree hlowest))

/-- R7: the record of R7's table. -/
def State.freshRecord (s : State) (d : DevicePos) (page : Nat) : Buffer where
  state := .gathering
  device := d
  page := page
  sequence := s.pool.sequence
  image := List.replicate (s.pageSize d) none
  contributors := []
  posted := false
  verify := false
  attempts := 0
  linger := none
  cause := none

/-- R9, R101: what a merge makes of a fresh record: `closed` says whether it closes at once. -/
theorem State.mergedBuffer_fresh (s : State) (e : EntryId) (x : Entry) (lo : Nat) (bytes : List Byte) (d : DevicePos) (page : Nat) :
    let y := s.mergedBuffer e x lo bytes (s.freshRecord d page)
    y.contributors = (if x.durable = true then [e] else []) ∧ y.posted = !x.durable
    ∧ (y.verify = true ↔ x.verifies = true ∨ d = 0 ∧ page * s.pageSize d < 1024) := by
  refine ⟨?_, Bool.false_or _, ?_⟩
  · by_cases hdurable : x.durable = true <;> simp [State.mergedBuffer, State.freshRecord, hdurable]
  · unfold State.mergedBuffer State.freshRecord touchesReserved
    simp only [Bool.or_eq_true, Bool.and_eq_true, decide_eq_true_eq, Bool.false_or]

/-- R7: a standing request has been served with the FREE record `b`. -/
def State.allocated (s : State) (r : AllocRequest) (b : BufferId) : State :=
  { s with pool := { s.pool with request := none } }.allocate b r.device r.page

theorem State.allocated_buffer (s : State) (r : AllocRequest) (b b' : BufferId) :
    (s.allocated r b).buffer? b' = if b' = b then some (s.freshRecord r.device r.page) else s.buffer? b' := by
  show (s.pool.buffers.set b _)[b'] = _
  by_cases hb : b' = b
  · subst hb
    simp
    rfl
  · have hval : b.val ≠ b'.val := fun h => hb (Fin.ext h.symm)
    simp [hb, hval]
    rfl

theorem State.allocated_allocates (s : State) (r : AllocRequest) (b : BufferId) :
    s.AllocatesBuffer (s.allocated r b) r b (s.freshRecord r.device r.page) :=
  ⟨rfl, rfl, (s.allocated_buffer r b b).trans (if_pos rfl), fun b' hb => (s.allocated_buffer r b b').trans (if_neg hb)⟩

/-- R9, R101: the record a merge leaves, closed or not. -/
theorem closed_record {p : Prop} [Decidable p] {y : Buffer} (h : y.state = .gathering) :
    (if y.state = .gathering ∧ p then { y with state := .closed, linger := none } else y)
      = { y with state := if p then .closed else .gathering, linger := if p then none else y.linger } := by
  by_cases hp : p
  · rw [if_pos ⟨h, hp⟩, if_pos hp, if_pos hp]
  · rw [if_neg fun hboth => hp hboth.2, if_neg hp, if_neg hp, ← h]

section
variable {s : State} {t : Turn} {x : Entry} {sp : Span} {bytes : List Byte} {b : BufferId} {r : AllocRequest}

/-- R7, R9, R101: the record that serves a request, after the merge. -/
theorem State.serveWith_record (hturn : s.gather.turn = some t) (hx : s.entry? t.entry = some x) :
    ∃ y, (s.serveWith t x sp bytes r b).buffer? b = some y ∧ y.device = r.device ∧ y.page = r.page ∧ y.sequence = s.pool.sequence
      ∧ y.image = mergeBytes (List.replicate (s.pageSize r.device) none) (sp.address % s.pageSize x.position) bytes
      ∧ y.contributors = (if x.durable = true then [t.entry] else []) ∧ y.posted = !x.durable
      ∧ (y.verify = true ↔ x.verifies = true ∨ r.device = 0 ∧ r.page * s.pageSize r.device < 1024)
      ∧ y.attempts = 0 ∧ y.cause = none
      ∧ (y.state = .gathering ∨ y.state = .closed)
      ∧ (y.state = .closed ↔ y.image.all (·.isSome) = true
          ∨ x.total ≤ x.progress + sp.length ∧ (x.durable = true ∨ s.pool.linger = 0))
      ∧ y.linger = (if y.state = .closed ∨ s.pool.linger = 0 then none else some s.pool.linger) := by
  have hb := (s.allocated_allocates r b).2.2.1
  have hbecomes := (State.mergeSpan_frame (s := s.allocated r b) (sp := sp) (bytes := bytes) hturn hx hb).1 b
  have hfull : (State.spanMerged (s.allocated r b) t x sp bytes b).pageFull b = ((s.mergedBuffer t.entry x
      (sp.address % s.pageSize x.position) bytes (s.freshRecord r.device r.page)).image.all (·.isSome)) := by
    unfold State.pageFull
    rw [State.spanMerged_buffer hb]
    rfl
  rw [hfull, State.spanMerged_buffer hb, Option.map_some, closed_record rfl] at hbecomes
  have hcloses := State.mem_mergeClosings (s := s.allocated r b) (t := t) (x := x) (sp := sp) (b := b)
    ((s.mergedBuffer t.entry x (sp.address % s.pageSize x.position) bytes (s.freshRecord r.device r.page)).image.all (·.isSome))
  obtain ⟨hcontributors, hposted, hverify⟩ := s.mergedBuffer_fresh t.entry x (sp.address % s.pageSize x.position) bytes r.device r.page
  refine ⟨_, hbecomes, rfl, rfl, rfl, rfl, hcontributors, hposted, hverify, rfl, rfl, ?_, Iff.trans ?_ hcloses, ?_⟩
  · dsimp only
    split
    · exact .inr rfl
    · exact .inl rfl
  · dsimp only
    split <;> simp_all
  · dsimp only
    have hlinger : (s.mergedBuffer t.entry x (sp.address % s.pageSize x.position) bytes (s.freshRecord r.device r.page)).linger
      = if s.pool.linger = 0 then none else some s.pool.linger := rfl
    split
    · exact (if_pos (.inl rfl)).symm
    · exact hlinger.trans (by simp)

/-- R7, R100 to R102: the rest of the state when a request has been served. -/
theorem State.serveWith_rest (hturn : s.gather.turn = some t) (hx : s.entry? t.entry = some x) (htouched : b ∉ t.touched)
    (hjoined : b ∉ t.joined) :
    let last : Prop := x.total ≤ x.progress + sp.length
    let u := s.serveWith t x sp bytes r b
    u = { s with orders := u.orders, gather := u.gather, pool := u.pool, channels := u.channels }
    ∧ u.pool.request = none ∧ u.pool.sequence = s.pool.sequence + 1
    ∧ (¬ last → u.gather = { s.gather with turn := some { t with
        span := none, bytes := none, touched := t.touched ++ [b],
        joined := if x.durable = true then t.joined ++ [b] else t.joined } })
    ∧ (last → u.gather = { s.gather with turn := none })
    ∧ (∀ e, e ≠ t.entry → u.entry? e = s.entry? e)
    ∧ (∀ b' y, b' ≠ b → s.buffer? b' = some y → u.buffer? b' = some y
        ∨ last ∧ y.state = .gathering ∧ u.buffer? b' = some { y with state := .closed, linger := none }) := by
  have hb := (s.allocated_allocates r b).2.2.1
  obtain ⟨hbuffers, hframe, hentries, -⟩ := State.mergeSpan_frame (s := s.allocated r b) (sp := sp) (bytes := bytes) hturn hx hb
  intro last u
  have hgather : u.gather = { s.gather with turn := if x.total ≤ x.progress + sp.length then none
      else ((s.allocated r b).spanMerged t x sp bytes b).gather.turn } := congrArg State.gather hframe
  refine ⟨?_, (congrArg (fun s : State => s.pool.request) hframe).trans rfl,
    (congrArg (fun s : State => s.pool.sequence) hframe).trans rfl, fun hlast => hgather.trans ?_, fun hlast => hgather.trans ?_,
    hentries, ?_⟩
  · have hu : u = (s.allocated r b).mergeSpan t x sp bytes b := rfl
    generalize (s.allocated r b).mergeSpan t x sp bytes b = w at hu hframe
    rw [hu, hframe]
    rfl
  · have hturned : ((s.allocated r b).spanMerged t x sp bytes b).gather.turn = s.gather.turn.map fun t => { t with
        span := none, bytes := none, touched := addOnce b t.touched
        joined := if x.durable then addOnce b t.joined else t.joined } := rfl
    rw [if_neg hlast, hturned, hturn, Option.map_some]
    unfold addOnce
    rw [if_neg htouched, if_neg hjoined]
  · rw [if_pos hlast]
  · intro b' y hne hy
    have hother := (hbuffers b').trans (congrArg _ ((State.spanMerged_buffer_ne hne).trans
      ((s.allocated_buffer r b b').trans ((if_neg hne).trans hy))))
    by_cases hcloses : y.state = .gathering ∧ b' ∈ State.mergeClosings (s.allocated r b) t x sp b
      ((State.spanMerged (s.allocated r b) t x sp bytes b).pageFull b)
    · exact .inr ⟨State.last_of_mem_mergeClosings hne hcloses.2, hcloses.1, hother.trans (congrArg some (if_pos hcloses))⟩
    · exact .inl (hother.trans (congrArg some (if_neg hcloses)))

end

/-- R98: the engine takes the next span of the order at its turn. -/
theorem State.gatherStep_span {s : State} {t : Turn} {x : Entry} (hturn : s.gather.turn = some t) (hx : s.entry? t.entry = some x)
    (hspan : t.span = none) (hwork : t.work ≠ .barrier) : s.gatherStep? = some (s.takeGatherSpan t x) := by
  unfold State.gatherStep?
  rw [hturn, State.atTurn_is hturn hx]
  dsimp only
  rw [hspan]
  exact if_neg hwork

/-- R4 to R7, R9: with a span in hand the engine asks the Pool, or lets the standing request go on. -/
theorem State.gatherStep_bytes {s : State} {t : Turn} {x : Entry} {sp : Span} {bytes : List Byte} (hturn : s.gather.turn = some t)
    (hx : s.entry? t.entry = some x) (hspan : t.span = some sp) (hbytes : t.bytes = some bytes) :
    (s.pool.request = none → s.gatherStep? = some (s.askPool t x sp bytes))
    ∧ ∀ r, s.pool.request = some r → s.gatherStep? = s.workRequest t x sp bytes r := by
  unfold State.gatherStep?
  rw [hturn, State.atTurn_is hturn hx]
  dsimp only
  rw [hspan, hbytes]
  exact ⟨fun h => by rw [h], fun r h => by rw [h]⟩

/-- R98, R99: the span taken, and where its bytes come from. -/
theorem State.takeGatherSpan_eq {s : State} {t : Turn} {x : Entry} (hturn : s.gather.turn = some t) (hwork : t.work ≠ .barrier) :
    let sp := spanFrom (s.pageSize x.position) (x.base + x.progress) (x.total - x.progress)
    s.takeGatherSpan t x = { s with
      gather := { s.gather with turn := some { t with span := some sp, bytes := match t.work with
        | .pattern byte => some (List.replicate sp.length byte)
        | .profileRecord record => some ((record.drop x.progress).take sp.length)
        | .hostData | .barrier => none } }
      host := { s.host with requests := s.host.requests ++
        if t.work = .hostData then [⟨.writeData t.entry, s.event, []⟩] else [] } } := by
  intro sp
  unfold State.takeGatherSpan State.requestMaster State.mapTurn
  rw [hturn]
  cases hkind : t.work with
  | barrier => exact absurd hkind hwork
  | hostData => simp [sp, hkind]
  | pattern byte => simp [sp, hkind]
  | profileRecord record => simp [sp, hkind]

/-- R4: without a GATHERING buffer of the page the engine asks for one. -/
theorem State.askPool_none {s : State} {t : Turn} {x : Entry} {sp : Span} {bytes : List Byte}
    (h : s.bufferOf .gathering x.position (sp.address / s.pageSize x.position) = none) :
    s.askPool t x sp bytes = s.requestBuffer x.position (sp.address / s.pageSize x.position) := by
  unfold State.askPool
  dsimp only
  rw [h]

/-- R4, R12: with one, its contributor list decides. -/
theorem State.askPool_some {s : State} {t : Turn} {x : Entry} {sp : Span} {bytes : List Byte} {b : BufferId} {y : Buffer}
    (h : s.bufferOf .gathering x.position (sp.address / s.pageSize x.position) = some b) (hy : s.buffer? b = some y) :
    s.askPool t x sp bytes = if x.durable = true ∧ t.entry ∉ y.contributors ∧ 8 ≤ y.contributors.length
      then (s.closeBuffer b).requestBuffer x.position (sp.address / s.pageSize x.position) else s.mergeSpan t x sp bytes b := by
  unfold State.askPool
  dsimp only
  rw [h]
  dsimp only
  rw [hy]

/-- R4: the one GATHERING buffer of a page is the one found. -/
theorem State.bufferOf_only {s : State} {d : DevicePos} {page : Nat} {b : BufferId} {y : Buffer} (hy : s.buffer? b = some y)
    (hstate : y.state = .gathering) (hdevice : y.device = d) (hpage : y.page = page)
    (honly : ∀ b' y', s.buffer? b' = some y' → y'.state = .gathering → y'.device = d → y'.page = page → b' = b) :
    s.bufferOf .gathering d page = some b := by
  obtain ⟨b', y', hfound, hy', hstate', hdevice', hpage'⟩ := s.bufferOf_some .gathering d page b y hy ⟨hstate, hdevice, hpage⟩
  rw [hfound, honly b' y' hy' hstate' hdevice' hpage']

/-- R6: what pool pressure closes: the oldest GATHERING buffer, if there is one. -/
theorem State.applyPressure_closes (s : State) (r : AllocRequest) :
    ∃ (v : State) (l : List BufferId), s.ClosesListed v l
      ∧ v = { s with pool := { s.pool with buffers := v.pool.buffers }, channels := v.channels }
      ∧ s.applyPressure r = { v with pool := { v.pool with request := some { r with pressed := true } } }
      ∧ ((∀ b y, s.buffer? b = some y → y.state ≠ .gathering) → l = [])
      ∧ ∀ b y, s.buffer? b = some y → y.state = .gathering →
          ∃ b' y', l = [b'] ∧ s.buffer? b' = some y' ∧ y'.state = .gathering ∧ s.bufferAge b ≤ s.bufferAge b' := by
  have hmem (b : BufferId) := s.mem_buffersWhere (fun y => y.state = .gathering) b
  unfold State.applyPressure
  cases hold : oldestBy s.bufferAge (s.buffersWhere fun y => y.state = .gathering) with
  | none =>
    have hnone := (oldestBy_none _ _).mp hold
    refine ⟨s, [], s.closeAll_closes [] List.nodup_nil, rfl, rfl, fun _ => rfl, fun b y hy hstate => ?_⟩
    have hin := (hmem b).mpr ⟨y, hy, decide_eq_true hstate⟩
    rw [hnone] at hin
    cases hin
  | some b' =>
    obtain ⟨hin, holdest⟩ := oldestBy_some _ _ _ hold
    obtain ⟨y', hy', hstate'⟩ := (hmem b').mp hin
    obtain ⟨hcloses, hframe⟩ := s.closeBuffer_closes b'
    exact ⟨_, [b'], hcloses, hframe, rfl, fun h => absurd (of_decide_eq_true hstate') (h b' y' hy'), fun b y hy hstate =>
      ⟨b', y', rfl, hy', of_decide_eq_true hstate', holdest b ((hmem b).mpr ⟨y, hy, decide_eq_true hstate⟩)⟩⟩

/-- Settles O40: a request that is served, then the engine's actions. -/
theorem allocationServed : Obligations.AllocationServed := by
  refine ⟨?_, ?_⟩
  · intro s t x r sp bytes b hrst hturn hx hrequest hspan hbytes hclosed hfree hlowest htouched hjoined
    have hexec := exec_allocationRequestServed s t x r sp bytes b hrst hturn hx hrequest hspan hbytes hclosed hfree hlowest
    obtain ⟨y, hy, hdevice, hpage, hsequence, himage, hcontributors, hposted, hverify, hattempts, hcause, hstate, hcloses, hlinger⟩ :=
      State.serveWith_record (s := s.newEvent) (sp := sp) (bytes := bytes) (r := r) (b := b) hturn hx
    obtain ⟨hframe, hrequest', hnumber, hmore, hend, hothers, hbuffers⟩ :=
      State.serveWith_rest (s := s.newEvent) (sp := sp) (bytes := bytes) (r := r) (b := b) hturn hx htouched hjoined
    have hallocates := s.newEvent.allocated_allocates r b
    obtain ⟨-, -, -, hdone, hentry⟩ := State.mergeSpan_frame (s := s.newEvent.allocated r b) (sp := sp) (bytes := bytes)
      hturn hx hallocates.2.2.1
    refine ⟨_, y, _, hexec, hrequest', hnumber, hy, hdevice, hpage, hsequence, himage, hcontributors, hposted, hverify, hattempts, hcause,
      ⟨hstate, hcloses, hlinger, hentry, ?_, fun hlast => ⟨if_neg hlast, hmore hlast, ?_⟩, hend, fun hlast hposted => ?_,
        fun hlast hdurable => ?_, hothers, hbuffers⟩, hframe, fun h1 h2 => ⟨_, _, hallocates,
        State.mergeSpan_merges _ t x sp bytes b _ hturn hx hallocates.2.2.1 rfl h1 h2⟩⟩
    · split
      · split <;> rfl
      · rfl
    · exact hdone.trans (if_neg fun h => hlast h.1)
    · rw [if_pos hlast, if_neg (by simp [hposted])]
      exact ⟨rfl, rfl, hdone.trans (if_pos ⟨hlast, hposted⟩)⟩
    · rw [if_pos hlast, if_pos hdurable]
      exact ⟨rfl, rfl, hdone.trans (if_neg (by simp [hdurable])), rfl⟩
  · intro s t x hturn hx
    refine ⟨fun hspan hwork => ⟨_, _, State.gatherStep_span hturn hx hspan hwork, rfl, rfl,
      State.takeGatherSpan_eq hturn hwork⟩, ?_⟩
    intro sp bytes page hspan hbytes hpage
    obtain ⟨hask, hwork⟩ := State.gatherStep_bytes hturn hx hspan hbytes
    refine ⟨fun hrequest => ?_, fun r hrequest => ?_⟩
    · rw [hask hrequest]
      subst hpage
      refine ⟨fun hnone => ?_, fun b y hy hstate hdevice hpage honly => ?_⟩
      · rw [State.askPool_none (State.bufferOf_none s _ _ _ hnone)]
        rfl
      · rw [State.askPool_some (State.bufferOf_only hy hstate hdevice hpage honly) hy]
        obtain ⟨hcloses, hframe⟩ := s.closeBuffer_closes b
        exact ⟨fun hfull => ⟨_, _, congrArg some (if_pos hfull), hcloses, hframe, rfl⟩, fun hroom h1 h2 =>
          ⟨_, congrArg some (if_neg hroom), s.mergeSpan_merges t x sp bytes b y hturn hx hy hstate h1 h2⟩⟩
    · rw [hwork r hrequest]
      unfold State.workRequest
      refine ⟨fun ⟨b, y, hy, hat⟩ => ?_, fun hopen => ?_⟩
      · obtain ⟨b', -, hfound, -⟩ := s.bufferOf_some .closed _ _ b y hy hat
        rw [hfound]
        rfl
      · rw [State.bufferOf_none s _ _ _ hopen]
        refine ⟨fun b hfree hlowest h1 h2 => ?_, fun hbusy hpressed => ?_, fun hbusy hpressed => ?_⟩
        · have hallocates := s.allocated_allocates r b
          rw [State.lowestFree_is s b hfree hlowest]
          exact ⟨_, _, _, rfl, hallocates,
            State.mergeSpan_merges _ t x sp bytes b _ hturn hx hallocates.2.2.1 rfl h1 h2⟩
        · rw [State.lowestFree_none s hbusy]
          exact if_pos hpressed
        · obtain ⟨v, l, hcloses, hframe, hpressure, hnone, hsome⟩ := s.applyPressure_closes r
          rw [State.lowestFree_none s hbusy]
          exact ⟨_, v, l, if_neg (ne_true_of_eq_false hpressed), hcloses, hframe, hpressure, hnone, hsome⟩

end Sys2Proof.Machine
end

section
/-! PROOFS. The end of a buffer (R19, R20, R91, R102, R103, R155): the obligation BufferEndGivesResults. -/

namespace Sys2Proof.Machine

/-! ### The failure list -/

/-- R20: the dropped counter stops at FFFFh. -/
theorem countDropped_eq (n : BitVec 16) :
    (if n = 0xFFFF#16 then n else n + 1) = BitVec.ofNat 16 (min 65535 (n.toNat + 1)) := by
  have hn := n.isLt
  refine BitVec.eq_of_toNat_eq ?_
  rw [BitVec.toNat_ofNat]
  split
  · next h =>
    rw [h]
    rfl
  · next h =>
    have hne : n.toNat ≠ 65535 := fun heq => h (BitVec.eq_of_toNat_eq heq)
    rw [BitVec.toNat_add, show (1 : BitVec 16).toNat = 1 from rfl]
    omega

theorem State.noteFailure_room {s : State} (f : PageFailure) (h : s.pool.failures.length < 8) :
    s.noteFailure f = { s with pool := { s.pool with failures := s.pool.failures ++ [f] } } := if_pos h

theorem State.noteFailure_drop {s : State} (f : PageFailure) (h : ¬ s.pool.failures.length < 8) :
    s.noteFailure f = { s with
      pool := { s.pool with dropped := BitVec.ofNat 16 (min 65535 (s.pool.dropped.toNat + 1)) }
      host := { s.host with fault := if s.pool.dropped = 0 then s.host.fault ||| 0b100000000#9 else s.host.fault } } := by
  refine (if_neg h).trans ?_
  dsimp only
  rw [countDropped_eq]
  split
  · rfl
  · rfl

/-- R19, R20: the failed page of a posted buffer is noted, and nothing else is. -/
def State.noteEnd (s : State) (failed : Option PageFailure) (posted : Bool) : State :=
  match failed with
  | some f => if posted then s.noteFailure f else s
  | none => s

theorem State.noteEnd_shape (s : State) (failed : Option PageFailure) (posted : Bool) :
    ∃ failures dropped fault, s.noteEnd failed posted = { s with
      pool := { s.pool with failures, dropped }, host := { s.host with fault } } := by
  unfold State.noteEnd
  cases failed with
  | none => exact ⟨_, _, _, rfl⟩
  | some f =>
    cases posted with
    | false => exact ⟨_, _, _, rfl⟩
    | true =>
      by_cases hroom : s.pool.failures.length < 8
      · exact ⟨_, _, _, State.noteFailure_room f hroom⟩
      · exact ⟨_, _, _, State.noteFailure_drop f hroom⟩

/-- R20: what is noted. -/
theorem State.noteEnd_is (s : State) (failed : Option PageFailure) (posted : Bool) :
    match failed with
    | some f =>
      if posted = false then (s.noteEnd failed posted).pool.failures = s.pool.failures
        ∧ (s.noteEnd failed posted).pool.dropped = s.pool.dropped ∧ (s.noteEnd failed posted).host.fault = s.host.fault
      else if s.pool.failures.length < 8 then
        (s.noteEnd failed posted).pool.failures = s.pool.failures ++ [f]
        ∧ (s.noteEnd failed posted).pool.dropped = s.pool.dropped ∧ (s.noteEnd failed posted).host.fault = s.host.fault
      else (s.noteEnd failed posted).pool.failures = s.pool.failures
        ∧ (s.noteEnd failed posted).pool.dropped = BitVec.ofNat 16 (min 65535 (s.pool.dropped.toNat + 1))
        ∧ (s.noteEnd failed posted).host.fault = if s.pool.dropped = 0 then s.host.fault ||| 0b100000000#9 else s.host.fault
    | none => (s.noteEnd failed posted).pool.failures = s.pool.failures
        ∧ (s.noteEnd failed posted).pool.dropped = s.pool.dropped ∧ (s.noteEnd failed posted).host.fault = s.host.fault := by
  cases failed with
  | none => exact ⟨rfl, rfl, rfl⟩
  | some f =>
    cases posted with
    | false => exact (if_pos rfl).mpr ⟨rfl, rfl, rfl⟩
    | true =>
      refine (if_neg (by simp)).mpr ?_
      by_cases hroom : s.pool.failures.length < 8
      · rw [if_pos hroom, show s.noteEnd (some f) true = _ from State.noteFailure_room f hroom]
        exact ⟨rfl, rfl, rfl⟩
      · rw [if_neg hroom, show s.noteEnd (some f) true = _ from State.noteFailure_drop f hroom]
        exact ⟨rfl, rfl, rfl⟩

/-! ### The record freed -/

section
variable (s : State) (b : BufferId) (d : DevicePos)

theorem State.freeBuffer_buffer (b' : BufferId) : (s.freeBuffer b d).buffer? b' = if b' = b then none else s.buffer? b' := by
  show (s.pool.buffers.set b none)[b'] = _
  by_cases hb : b' = b
  · subst hb
    simp
  · have hval : b.val ≠ b'.val := fun h => hb (Fin.ext h.symm)
    simp [hb, hval]
    rfl

theorem State.freeBuffer_entry (e : EntryId) : (s.freeBuffer b d).entry? e = (s.entry? e).map fun x => x.unwatch b :=
  State.mapEntries_entry _ e _

theorem State.freeBuffer_device (d' : DevicePos) : (s.freeBuffer b d).device d'
    = if d' = d ∧ (s.device d').slot = some b then { s.device d' with slot := none } else s.device d' := by
  show (s.mapDevice d _).device d' = _
  by_cases hd : d' = d
  · subst hd
    refine (State.mapDevice_device _ d' _).trans ?_
    show (if (s.device d').slot = some b then { s.device d' with slot := none } else s.device d') = _
    by_cases hslot : (s.device d').slot = some b
    · rw [if_pos hslot, if_pos ⟨rfl, hslot⟩]
    · rw [if_neg hslot, if_neg fun h => hslot h.2]
  · rw [State.mapDevice_other _ _ _ _ hd, if_neg fun h => hd h.1]

theorem State.freeBuffer_channel (c : ChannelId) : (s.freeBuffer b d).channel c
    = if c = channelOf d then { s.channel c with queue := (s.channel c).queue.filter (· ≠ b) } else s.channel c := by
  show (s.mapChannel (channelOf d) fun c => { c with queue := c.queue.filter (· ≠ b) }).channel c = _
  by_cases hc : c = channelOf d
  · subst hc
    rw [State.mapChannel_channel, if_pos rfl]
  · rw [State.mapChannel_other _ _ _ _ hc, if_neg hc]

end

/-! ### The end of a buffer -/

theorem State.endBufferQuiet_eq {s : State} {b : BufferId} {y : Buffer} (failure : Option Cause) (hy : s.buffer? b = some y) :
    let failed := failure.map fun c => (⟨y.device, y.page, c⟩ : PageFailure)
    s.endBufferQuiet b failure
      = ((y.contributors.foldl (fun t e => t.giveResult failed e) s).noteEnd failed y.posted).freeBuffer b y.device := by
  unfold State.endBufferQuiet
  rw [hy]
  cases failure <;> rfl

theorem Entry.given_watch (failed : Option PageFailure) (x : Entry) : (Entry.given failed x).watch = x.watch := by
  unfold Entry.given
  dsimp only
  split <;> rfl

theorem Entry.unwatch_of_not_mem {x : Entry} {b : BufferId} (h : b ∉ x.watch) : x.unwatch b = x := if_neg h

/-- R103: what a result makes of the number of failed pages. -/
theorem Entry.given_failedPages (failed : Option PageFailure) (x : Entry) :
    (Entry.given failed x).failedPages = if failed.isSome then x.failedPages + 1 else x.failedPages := by
  unfold Entry.given
  dsimp only
  split <;> rfl

/-- R19: an entry after the end of a buffer: it has taken its result, and left its watch. -/
theorem State.entry_endBufferQuiet {s : State} {b : BufferId} {y : Buffer} (failure : Option Cause) (hy : s.buffer? b = some y)
    (hnodup : y.contributors.Nodup) (e : EntryId) :
    (s.endBufferQuiet b failure).entry? e = ((if e ∈ y.contributors
      then (s.entry? e).map (Entry.given (failure.map fun c => ⟨y.device, y.page, c⟩)) else s.entry? e).map fun x => x.unwatch b) := by
  rw [State.endBufferQuiet_eq failure hy, State.freeBuffer_entry, ← State.entry_giveAll _ _ _ e hnodup]
  obtain ⟨failures, dropped, fault, hnoted⟩ := State.noteEnd_shape
    (y.contributors.foldl (fun t e => t.giveResult (failure.map fun c => ⟨y.device, y.page, c⟩) e) s)
    (failure.map fun c => (⟨y.device, y.page, c⟩ : PageFailure)) y.posted
  rw [hnoted]
  rfl

/-- Settles O43: the results in list order, the failure noted, the record freed. -/
theorem bufferEndGivesResults : Obligations.BufferEndGivesResults := by
  intro s b y failure hy hnodup hwatch
  have hentries := State.entry_endBufferQuiet failure hy hnodup
  have hgiven := State.giveAll_frame y.contributors s (failure.map fun c => (⟨y.device, y.page, c⟩ : PageFailure)) hnodup
  have hend := State.endBufferQuiet_eq failure hy
  dsimp only at hend
  generalize y.contributors.foldl (fun t e => t.giveResult (failure.map fun c => (⟨y.device, y.page, c⟩ : PageFailure)) e) s = g
    at hgiven hend
  generalize g.orders.entries = entries at hgiven
  have hnotes := g.noteEnd_is (failure.map fun c => (⟨y.device, y.page, c⟩ : PageFailure)) y.posted
  obtain ⟨failures, dropped, fault, hnoted⟩ := g.noteEnd_shape (failure.map fun c => (⟨y.device, y.page, c⟩ : PageFailure)) y.posted
  rw [hnoted] at hend hnotes
  subst hgiven
  refine ⟨_, rfl, ?_, ?_, ⟨?_, ?_, ?_⟩, ?_, ?_, ?_, ?_, ?_, ?_, ?_⟩
  · rw [hend]
    exact (State.freeBuffer_buffer _ b y.device b).trans (if_pos rfl)
  · intro b' hb
    rw [hend]
    exact (State.freeBuffer_buffer _ b y.device b').trans (if_neg hb)
  · intro e x hin hx
    have hunwatched : (Entry.given (failure.map fun c => (⟨y.device, y.page, c⟩ : PageFailure)) x).unwatch b = Entry.given _ x :=
      Entry.unwatch_of_not_mem (by rw [Entry.given_watch]; exact hwatch e x hin hx)
    have hentry := hentries e
    rw [if_pos hin, hx, Option.map_some, Option.map_some, hunwatched] at hentry
    have hfailed : (failure.map fun c => (⟨y.device, y.page, c⟩ : PageFailure)).isSome = failure.isSome := Option.isSome_map
    rw [hentry]
    unfold Entry.given
    dsimp only
    rw [hfailed]
    by_cases hlast : x.state = .held ∧ x.progress ≤ 1
    · rw [if_pos hlast, if_pos hlast]
    · rw [if_neg hlast, if_neg hlast]
  · intro e x hout hx
    have hentry := hentries e
    rw [if_neg hout, hx] at hentry
    exact hentry
  · rw [hend]
    exact hnotes
  · intro d
    rw [hend]
    exact State.freeBuffer_device _ b y.device d
  · intro c
    rw [hend]
    exact State.freeBuffer_channel _ b y.device c
  · intro e hx
    rw [hentries e, hx]
    split <;> rfl
  · intro pages ended hended
    have hlist : ended = y.contributors.filter fun e => ((s.entry? e).map Entry.lastResult).getD false := by
      rw [hended]
      refine List.filter_congr fun e _ => ?_
      cases s.entry? e <;> rfl
    have hpages (x : Entry) : (Entry.given (failure.map fun c => (⟨y.device, y.page, c⟩ : PageFailure)) x).failedPages = pages x := by
      rw [Entry.given_failedPages, Option.isSome_map]
    rw [hend, hlist]
    refine ⟨rfl, List.foldl_ext _ _ _ fun l e _ => ?_⟩
    cases s.entry? e with
    | none => rfl
    | some x => exact congrArg (l.storeOver x.store) (hpages x)
  · rw [hend]
    rfl
  · rw [hend]
    rfl
  · intro hflush hbarrier
    exact State.nothingDue _ hflush hbarrier

end Sys2Proof.Machine
end

section
/-! PROOFS. A device that is lost (R38, R64, R65, R105, R127, R147): the obligation LostDeviceEndsItsWork. -/

namespace Sys2Proof.Machine

/-! ### The steps of R38 -/

/-- R38, steps 1 and 2. -/
def State.lossBegun (s : State) (d : DevicePos) : State := (((s.countLostAttempt d).markOffline d).withdrawItems d).dropFrame d

/-- R38, step 3: the buffers of the device, in their order. -/
def State.buffersLost (s : State) (d : DevicePos) (cause : Cause) : State :=
  (s.lostBuffers d).foldl (fun t b => t.endBufferQuiet b (some (if (s.device d).slot = some b then cause else .offline))) s

theorem State.goOffline_eq (s : State) (d : DevicePos) (cause : Cause) : s.goOffline d cause
    = ((((((s.lossBegun d).buffersLost d cause).reportFlushes.actBarrier.readsOffline d).gatherOffline d).setFault .deviceLost).bootLost
        d) := rfl

theorem State.lossBegun_goesOffline (s : State) (d : DevicePos) : s.GoesOffline (s.lossBegun d) d := s.markOffline_goesOffline d

theorem State.GoesOffline.device_is {s v : State} {d : DevicePos} (h : s.GoesOffline v d) :
    ∃ attempts, v.device d = { s.device d with
      state := .offline, wakeLimit := none, cycleTimer := none, pollTimer := false, noAnswer := 0, confirming := false
      failedAttempts := attempts } := by
  by_cases hattempt : ∃ b y, (s.device d).slot = some b ∧ s.buffer? b = some y
      ∧ (y.state = .verifying
        ∨ y.state = .programming ∧ ∀ i ∈ (s.channel (channelOf y.device)).waiting, i.work ≠ .programStart b)
  · exact ⟨_, h.device true ⟨fun _ => hattempt, fun _ => rfl⟩⟩
  · exact ⟨_, h.device false ⟨(nomatch ·), fun hyes => absurd hyes hattempt⟩⟩

theorem State.GoesOffline.slot {s v : State} {d : DevicePos} (h : s.GoesOffline v d) : (v.device d).slot = (s.device d).slot := by
  obtain ⟨_, hdevice⟩ := h.device_is
  rw [hdevice]

/-! ### Work that leaves the pool's records in place -/

/-- R9, R20: what a page still has of its buffer while orders end around it. -/
def Buffer.SamePage (y y' : Buffer) : Prop :=
  y'.state = y.state ∧ y'.device = y.device ∧ y'.page = y.page ∧ y'.image = y.image ∧ y'.sequence = y.sequence

/-- Work in which orders end: devices, the standing request and the pages of the pool stay, and what is DONE stays DONE. -/
structure State.EndsOnly (s u : State) : Prop where
  devices : u.devices = s.devices
  request : u.pool.request = s.pool.request
  phase : u.loader.phase = s.loader.phase
  free : ∀ b, s.buffer? b = none → u.buffer? b = none
  pages : ∀ b y, s.buffer? b = some y → ∃ y', u.buffer? b = some y' ∧ y.SamePage y'
  entries : ∀ e x, s.entry? e = some x → ∃ x', u.entry? e = some x' ∧ (x.state = .done → x'.state = .done)

theorem Buffer.SamePage.refl {y : Buffer} : y.SamePage y := ⟨rfl, rfl, rfl, rfl, rfl⟩

theorem Buffer.SamePage.trans {y z w : Buffer} (h : y.SamePage z) (k : z.SamePage w) : y.SamePage w := by
  obtain ⟨h1, h2, h3, h4, h5⟩ := h
  obtain ⟨k1, k2, k3, k4, k5⟩ := k
  exact ⟨k1.trans h1, k2.trans h2, k3.trans h3, k4.trans h4, k5.trans h5⟩

theorem State.EndsOnly.refl {s : State} : s.EndsOnly s :=
  ⟨rfl, rfl, rfl, fun _ => id, fun _ y hy => ⟨y, hy, .refl⟩, fun _ x hx => ⟨x, hx, id⟩⟩

theorem State.EndsOnly.trans {s u v : State} (h : s.EndsOnly u) (k : u.EndsOnly v) : s.EndsOnly v where
  devices := k.devices.trans h.devices
  request := k.request.trans h.request
  phase := k.phase.trans h.phase
  free b hb := k.free b (h.free b hb)
  pages b y hy := by
    obtain ⟨y', hy', hsame⟩ := h.pages b y hy
    obtain ⟨y'', hy'', hsame'⟩ := k.pages b y' hy'
    exact ⟨y'', hy'', hsame.trans hsame'⟩
  entries e x hx := by
    obtain ⟨x', hx', hdone⟩ := h.entries e x hx
    obtain ⟨x'', hx'', hdone'⟩ := k.entries e x' hx'
    exact ⟨x'', hx'', hdone' ∘ hdone⟩

/-- Work on the Order Table, the failure list and the host side alone. -/
theorem State.EndsOnly.of_entries {s u : State} (hdevices : u.devices = s.devices) (hrequest : u.pool.request = s.pool.request)
    (hphase : u.loader.phase = s.loader.phase) (hbuffers : u.pool.buffers = s.pool.buffers)
    (hentries : ∀ e x, s.entry? e = some x → ∃ x', u.entry? e = some x' ∧ (x.state = .done → x'.state = .done)) :
    s.EndsOnly u where
  devices := hdevices
  request := hrequest
  phase := hphase
  free b hb := (congrArg (fun v : Vector (Option Buffer) 16 => v[b]) hbuffers).trans hb
  pages b y hy := ⟨y, (congrArg (fun v : Vector (Option Buffer) 16 => v[b]) hbuffers).trans hy, .refl⟩
  entries := hentries

theorem State.endsOnly_foldl {α : Type} (f : State → α → State) (h : ∀ (s : State) a, s.EndsOnly (f s a)) (l : List α)
    (s : State) : s.EndsOnly (l.foldl f s) := by
  induction l generalizing s with
  | nil => exact .refl
  | cons a l ih => exact (h s a).trans (ih _)

theorem State.goDone_endsOnly (s : State) (e : EntryId) (r : Result) : s.EndsOnly (s.goDone e r) := by
  have hentries := fun e' => s.entry_goDone e e' r
  obtain ⟨orders, hdone⟩ := s.goDone_shape e r
  rw [hdone] at hentries ⊢
  refine .of_entries rfl rfl rfl rfl fun e' x hx => ?_
  rw [hentries]
  split
  · next he =>
    rw [← he, hx]
    exact ⟨_, rfl, fun _ => rfl⟩
  · exact ⟨x, hx, id⟩

/-! ### FLUSH reports and barrier actions -/

theorem State.reportFlush_endsOnly (s : State) (e : EntryId) : s.EndsOnly (s.reportFlush e) := by
  unfold State.reportFlush
  split
  · exact .refl
  · refine State.EndsOnly.trans ?_ (State.goDone_endsOnly _ e _)
    exact .of_entries rfl rfl rfl rfl fun _ x hx => ⟨x, hx, id⟩

theorem State.reportFlush_shape (s : State) (e : EntryId) :
    ∃ (o : OrderTable) (p : Pool), s.reportFlush e = { s with orders := o, pool := p } := by
  unfold State.reportFlush
  split
  · exact ⟨_, _, rfl⟩
  · next x _ =>
    obtain ⟨o, hdone⟩ := State.goDone_shape { s with pool := { s.pool with
      failures := s.pool.failures.filter fun f => !x.inScope f.device
      dropped := if x.record.allDevices then 0 else s.pool.dropped } } e (s.flushResult x)
    exact ⟨o, _, hdone⟩

theorem State.reportFlushes_shape (s : State) :
    ∃ (o : OrderTable) (p : Pool), s.reportFlushes = { s with orders := o, pool := p } := by
  unfold State.reportFlushes
  generalize s.flushesDue = l
  induction l generalizing s with
  | nil => exact ⟨_, _, rfl⟩
  | cons e l ih =>
    obtain ⟨o, p, hfirst⟩ := s.reportFlush_shape e
    obtain ⟨o', p', hrest⟩ := ih (s.reportFlush e)
    exact ⟨o', p', hrest.trans (by rw [hfirst])⟩

/-- R111: without a barrier order at its turn there is nothing to act. -/
theorem State.actBarrier_none {s : State} (h : ∀ t, s.gather.turn = some t → t.work ≠ .barrier) : s.actBarrier = s := by
  unfold State.actBarrier State.barrierDue State.atTurn
  cases hturn : s.gather.turn with
  | none => rfl
  | some t =>
    cases hx : s.entry? t.entry with
    | none => simp [hx]
    | some x => simp [hx, h t hturn]

/-! ### The reads of the device -/

/-- R127: the entry of a read that ends with its device. -/
def Entry.readLost (x : Entry) : Entry := { x with state := .done, result := some ⟨.deviceOffline, BitVec.ofNat 32 x.progress, none⟩ }

theorem State.entry_readOffline (s : State) (e e' : EntryId) :
    (s.readOffline e).entry? e' = if e' = e then (s.entry? e').map Entry.readLost else s.entry? e' := by
  unfold State.readOffline
  split
  · next hnone =>
    split
    · next he => rw [he, hnone]; rfl
    · rfl
  · next x hx =>
    rw [State.entry_goDone]
    split
    · next he =>
      rw [he, hx, show (s.giveUp (.readData e)).entry? e = some x from hx]
      rfl
    · rfl

theorem State.entry_readOfflineAll (l : List EntryId) (s : State) (e : EntryId) :
    (l.foldl State.readOffline s).entry? e = if e ∈ l then (s.entry? e).map Entry.readLost else s.entry? e := by
  induction l generalizing s with
  | nil => simp
  | cons a l ih =>
    rw [List.foldl_cons, ih, State.entry_readOffline]
    have htwice : ((s.entry? e).map Entry.readLost).map Entry.readLost = (s.entry? e).map Entry.readLost := by
      cases s.entry? e <;> rfl
    by_cases ha : e = a
    · rw [if_pos ha, htwice, if_pos (List.mem_cons.mpr (.inl ha)), ite_self]
    · rw [if_neg ha]
      simp only [List.mem_cons, ha, false_or]

theorem State.readOffline_endsOnly (s : State) (e : EntryId) : s.EndsOnly (s.readOffline e) := by
  unfold State.readOffline
  split
  · exact .refl
  · refine State.EndsOnly.trans ?_ (State.goDone_endsOnly _ e _)
    exact .of_entries rfl rfl rfl rfl fun _ x hx => ⟨x, hx, id⟩

theorem State.readOfflineAll_shape (l : List EntryId) (s : State) :
    ∃ (o : OrderTable) (h : HostPort), l.foldl State.readOffline s = { s with orders := o, host := h } := by
  induction l generalizing s with
  | nil => exact ⟨_, _, rfl⟩
  | cons e l ih =>
    have hfirst : ∃ (o : OrderTable) (h : HostPort), s.readOffline e = { s with orders := o, host := h } := by
      unfold State.readOffline
      split
      · exact ⟨_, _, rfl⟩
      · next x _ =>
        obtain ⟨o, hdone⟩ := State.goDone_shape (s.giveUp (.readData e)) e (.plain .deviceOffline x.progress)
        exact ⟨o, _, hdone⟩
    obtain ⟨o, h, hfirst⟩ := hfirst
    obtain ⟨o', h', hrest⟩ := ih (s.readOffline e)
    exact ⟨o', h', hrest.trans (by rw [hfirst])⟩

/-- R127: the active read has ended, if it is a read of the device. -/
def State.activeLost (s : State) (d : DevicePos) : State :=
  match s.activeOf d with
  | some e => (s.setActive none).readOffline e
  | none => s

theorem State.readsOffline_eq (s : State) (d : DevicePos) :
    s.readsOffline d = (s.parkedOf d).foldl State.readOffline ((s.activeLost d).withoutParked d (s.parkedOf d)) := rfl

theorem State.activeLost_shape (s : State) (d : DevicePos) : ∃ (o : OrderTable) (h : HostPort) (active : Option ActiveRead),
    s.activeLost d = { s with orders := o, host := h, reader := { s.reader with active := active } } := by
  unfold State.activeLost
  split
  · next e _ =>
    obtain ⟨o, h, hlost⟩ := State.readOfflineAll_shape [e] (s.setActive none)
    exact ⟨o, h, none, hlost⟩
  · exact ⟨_, _, _, rfl⟩

theorem State.activeLost_endsOnly (s : State) (d : DevicePos) : s.EndsOnly (s.activeLost d) := by
  unfold State.activeLost
  split
  · refine State.EndsOnly.trans ?_ (State.readOffline_endsOnly _ _)
    exact .of_entries rfl rfl rfl rfl fun _ x hx => ⟨x, hx, id⟩
  · exact .refl

theorem State.readsOffline_endsOnly (s : State) (d : DevicePos) : s.EndsOnly (s.readsOffline d) := by
  rw [State.readsOffline_eq]
  refine ((s.activeLost_endsOnly d).trans ?_).trans (State.endsOnly_foldl _ State.readOffline_endsOnly _ _)
  exact .of_entries rfl rfl rfl rfl fun _ x hx => ⟨x, hx, id⟩

theorem State.readsOffline_shape (s : State) (d : DevicePos) :
    ∃ (o : OrderTable) (h : HostPort) (r : ReadEngine), s.readsOffline d = { s with orders := o, host := h, reader := r }
      ∧ r.deferred[d] = [] := by
  obtain ⟨o, h, active, hactive⟩ := s.activeLost_shape d
  obtain ⟨o', h', hparked⟩ := State.readOfflineAll_shape (s.parkedOf d) ((s.activeLost d).withoutParked d (s.parkedOf d))
  rw [← State.readsOffline_eq, hactive] at hparked
  exact ⟨o', h', _, hparked, Vector.getElem_set_self _⟩

/-- R127: a PARKED read of the device ends with the bytes delivered. -/
theorem State.readsOffline_parked {s : State} {d : DevicePos} {e : EntryId} {x : Entry} (he : e ∈ s.reader.deferred[d])
    (hx : s.entry? e = some x) : (s.readsOffline d).entry? e = some x.readLost := by
  have hparked : e ∈ s.parkedOf d :=
    (oldestFirst_spec _ _).1.mem_iff.mpr (List.mem_append.mpr (.inl he))
  have hactive : (s.activeLost d).entry? e = some x ∨ (s.activeLost d).entry? e = some x.readLost := by
    unfold State.activeLost
    split
    · next e' _ =>
      rw [State.entry_readOffline, show (s.setActive none).entry? e = some x from hx]
      split
      · exact .inr rfl
      · exact .inl rfl
    · exact .inl hx
  rw [State.readsOffline_eq, State.entry_readOfflineAll, if_pos hparked]
  show ((s.activeLost d).entry? e).map Entry.readLost = _
  obtain hsame | hlost := hactive
  · rw [hsame]
    rfl
  · rw [hlost]
    rfl

/-! ### The order that gathers for the device -/

theorem Loader.storeOver_phase (l : Loader) (store : Option StoreJob) (n : Nat) : (l.storeOver store n).phase = l.phase := by
  unfold Loader.storeOver
  cases store <;> rfl

theorem State.gatherOffline_cases (s : State) (d : DevicePos) : s.gatherOffline d = s
    ∨ ∃ t x, s.gather.turn = some t ∧ s.entry? t.entry = some x ∧ t.work ≠ .barrier ∧ x.position = d := by
  by_cases hgathers : ∃ t x, s.gather.turn = some t ∧ s.entry? t.entry = some x ∧ t.work ≠ .barrier ∧ x.position = d
  · exact .inr hgathers
  · refine .inl ((s.gatherOffline_ends d).1 fun t x hturn hx => ?_)
    by_contra hno
    exact hgathers ⟨t, x, hturn, hx, fun hwork => hno (.inl hwork), by_contra fun hposition => hno (.inr hposition)⟩

theorem State.gatherOffline_endsOnly (s : State) (d : DevicePos) : s.EndsOnly (s.gatherOffline d) := by
  obtain hsame | ⟨t, x, hturn, hx, hwork, hposition⟩ := s.gatherOffline_cases d
  · rw [hsame]
    exact .refl
  · obtain ⟨hentry, hothers, -, hbuffers, hframe⟩ := (s.gatherOffline_ends d).2 t x hturn hx hwork hposition
    refine ⟨(congrArg State.devices hframe).trans rfl, (congrArg (fun s : State => s.pool.request) hframe).trans rfl,
      (congrArg (fun s : State => s.loader.phase) hframe).trans (Loader.storeOver_phase _ _ _), fun b hb => ?_, fun b y hy => ?_,
      fun e y hy => ?_⟩
    · rw [hbuffers, hb]
      rfl
    · rw [hbuffers, hy]
      exact ⟨_, rfl, .refl⟩
    · by_cases he : e = t.entry
      · rw [he]
        exact ⟨_, hentry, fun _ => rfl⟩
      · exact ⟨y, (hothers e he).trans hy, id⟩

theorem State.gatherOffline_reader (s : State) (d : DevicePos) : (s.gatherOffline d).reader = s.reader := by
  obtain hsame | ⟨t, x, hturn, hx, hwork, hposition⟩ := s.gatherOffline_cases d
  · rw [hsame]
  · exact (congrArg State.reader ((s.gatherOffline_ends d).2 t x hturn hx hwork hposition).2.2.2.2).trans rfl

/-! ### The buffers of the device -/

/-- R19, R64: work in which the buffers of a list end, all of device `d`. -/
structure State.LosesPages (s u : State) (d : DevicePos) (l : List BufferId) : Prop where
  buffers : ∀ b, u.buffer? b = if b ∈ l then none else s.buffer? b
  others : ∀ d', d' ≠ d → u.device d' = s.device d'
  device : ∃ slot, u.device d = { s.device d with slot := slot } ∧ (slot = none ∨ slot = (s.device d).slot)
  slot : ∀ b ∈ l, (s.device d).slot = some b → s.buffer? b ≠ none → (u.device d).slot = none
  reader : u.reader = s.reader
  request : u.pool.request = s.pool.request
  phase : u.loader.phase = s.loader.phase
  turn : (s.gather.turn = none → u.gather.turn = none)
    ∧ ∀ t, u.gather.turn = some t → ∃ t', s.gather.turn = some t' ∧ t.work = t'.work
  entries : ∀ e x, s.entry? e = some x → ∃ x', u.entry? e = some x'
  quiet : ∀ e x, s.entry? e = some x → x.watch = [] → (∀ b y, s.buffer? b = some y → e ∉ y.contributors) → u.entry? e = some x

theorem State.LosesPages.nil {s : State} {d : DevicePos} : s.LosesPages s d [] where
  buffers _ := (if_neg List.not_mem_nil).symm
  others _ _ := rfl
  device := ⟨_, rfl, .inr rfl⟩
  slot _ h := nomatch h
  reader := rfl
  request := rfl
  phase := rfl
  turn := ⟨id, fun t ht => ⟨t, ht, rfl⟩⟩
  entries _ x hx := ⟨x, hx⟩
  quiet _ _ hx _ _ := hx

theorem State.LosesPages.cons {s u v : State} {d : DevicePos} {b : BufferId} {l : List BufferId} (h : s.LosesPages u d [b])
    (k : u.LosesPages v d l) : s.LosesPages v d (b :: l) where
  buffers b' := by
    rw [k.buffers, h.buffers]
    by_cases hb : b' = b <;> by_cases hl : b' ∈ l <;> simp [hb, hl]
  others d' hd := (k.others d' hd).trans (h.others d' hd)
  device := by
    obtain ⟨slot, hu, hslot⟩ := h.device
    obtain ⟨slot', hv, hslot'⟩ := k.device
    refine ⟨slot', hv.trans (by rw [hu]), hslot'.elim .inl fun heq => ?_⟩
    rw [heq, hu]
    exact hslot
  slot b' hb' hslot hlive := by
    obtain ⟨slot, hu, hcase⟩ := h.device
    have hnone (hempty : (u.device d).slot = none) : (v.device d).slot = none := by
      obtain ⟨slot', hv, hcase'⟩ := k.device
      rw [hv]
      exact hcase'.elim id fun heq => heq.trans hempty
    by_cases hb : b' = b
    · exact hnone (h.slot b' (by simp [hb]) hslot hlive)
    · obtain hempty | hkept := hcase
      · exact hnone (by rw [hu]; exact hempty)
      · refine k.slot b' (List.mem_of_ne_of_mem hb hb') (by rw [hu]; exact hkept.trans hslot) ?_
        rw [h.buffers, if_neg (by simpa using hb)]
        exact hlive
  reader := k.reader.trans h.reader
  request := k.request.trans h.request
  phase := k.phase.trans h.phase
  turn := by
    refine ⟨k.turn.1 ∘ h.turn.1, fun t ht => ?_⟩
    obtain ⟨t', ht', hwork⟩ := k.turn.2 t ht
    obtain ⟨t'', ht'', hwork'⟩ := h.turn.2 t' ht'
    exact ⟨t'', ht'', hwork.trans hwork'⟩
  entries e x hx := by
    obtain ⟨x', hx'⟩ := h.entries e x hx
    exact k.entries e x' hx'
  quiet e x hx hwatch hout := by
    refine k.quiet e x (h.quiet e x hx hwatch hout) hwatch fun b' y hy => ?_
    rw [h.buffers] at hy
    split at hy
    · cases hy
    · exact hout b' y hy

/-- R19, R103, R155: the results of a page, whatever its list repeats. -/
theorem State.giveAll_shape (l : List EntryId) (failed : Option PageFailure) (s : State) :
    ∃ (o : OrderTable) (k : Loader), l.foldl (fun t e => t.giveResult failed e) s = { s with orders := o, loader := k }
      ∧ k.phase = s.loader.phase ∧ (∀ e x, s.entry? e = some x → ∃ x', o.entries[e] = some x')
      ∧ ∀ e, e ∉ l → o.entries[e] = s.entry? e := by
  induction l generalizing s with
  | nil => exact ⟨_, _, rfl, rfl, fun _ x hx => ⟨x, hx⟩, fun _ _ => rfl⟩
  | cons a l ih =>
    obtain ⟨o, k, hrest, hphase, hentries, hothers⟩ := ih (s.giveResult failed a)
    have hfirst : ∃ (o : OrderTable) (k : Loader), s.giveResult failed a = { s with orders := o, loader := k }
        ∧ k.phase = s.loader.phase := by
      cases hx : s.entry? a with
      | none =>
        refine ⟨s.orders, s.loader, ?_, rfl⟩
        unfold State.giveResult
        rw [hx]
      | some x =>
        refine ⟨_, _, s.giveResult_frame failed a x hx, ?_⟩
        split
        · exact Loader.storeOver_phase _ _ _
        · rfl
    obtain ⟨o', k', hfirst, hphase'⟩ := hfirst
    refine ⟨o, k, hrest.trans (by rw [hfirst]), hphase.trans (by rw [hfirst]; exact hphase'), fun e x hx => ?_, fun e he => ?_⟩
    · refine hentries e (if e = a then Entry.given failed x else x) ?_
      rw [State.entry_giveResult]
      split
      · next heq =>
        rw [← heq, hx]
        rfl
      · exact hx
    · rw [List.mem_cons, not_or] at he
      rw [hothers e he.2, State.entry_giveResult, if_neg he.1]

/-- R19: one buffer ends. -/
theorem State.endBufferQuiet_losesPages {s : State} {b : BufferId} {d : DevicePos} (failure : Option Cause)
    (hdevice : ∀ y, s.buffer? b = some y → y.device = d) : s.LosesPages (s.endBufferQuiet b failure) d [b] := by
  cases hy : s.buffer? b with
  | none =>
    have hsame : s.endBufferQuiet b failure = s := by
      unfold State.endBufferQuiet
      rw [hy]
    rw [hsame]
    refine { State.LosesPages.nil (s := s) (d := d) with buffers := fun b' => ?_, slot := fun b' hb hslot hlive => ?_ }
    · split
      · next hb => rw [List.mem_singleton.mp hb, hy]
      · rfl
    · rw [List.mem_singleton.mp hb] at hlive
      exact absurd hy hlive
  | some y =>
    obtain rfl := hdevice y hy
    rw [State.endBufferQuiet_eq failure hy]
    obtain ⟨o, k, hgiven, hphase, hentries, hothers⟩ := State.giveAll_shape y.contributors
      (failure.map fun c => (⟨y.device, y.page, c⟩ : PageFailure)) s
    rw [hgiven]
    obtain ⟨failures, dropped, fault, hnoted⟩ := State.noteEnd_shape { s with orders := o, loader := k }
      (failure.map fun c => (⟨y.device, y.page, c⟩ : PageFailure)) y.posted
    rw [hnoted]
    generalize hw : ({ s with orders := o, loader := k, pool := { s.pool with failures, dropped }, host := { s.host with fault } } : State)
      = w
    have hwdevice (d' : DevicePos) : w.device d' = s.device d' := by rw [← hw]; rfl
    have hwbuffer (b' : BufferId) : w.buffer? b' = s.buffer? b' := by rw [← hw]; rfl
    have hwentry (e : EntryId) : w.entry? e = o.entries[e] := by rw [← hw]; rfl
    have hwturn : w.gather = s.gather := by rw [← hw]
    refine ⟨fun b' => ?_, fun d' hd => ?_, ?_, fun b' hb hslot _ => ?_, ?_, ?_, ?_, ⟨fun hturn => ?_, fun t ht => ?_⟩,
      fun e x hx => ?_, fun e x hx hwatch hout => ?_⟩
    · rw [State.freeBuffer_buffer, hwbuffer]
      simp only [List.mem_singleton]
    · rw [State.freeBuffer_device, if_neg fun h => hd h.1, hwdevice]
    · rw [State.freeBuffer_device, hwdevice]
      split
      · exact ⟨none, rfl, .inl rfl⟩
      · exact ⟨_, rfl, .inr rfl⟩
    · rw [State.freeBuffer_device, hwdevice, if_pos ⟨rfl, (List.mem_singleton.mp hb) ▸ hslot⟩]
    · rw [← hw]
      rfl
    · rw [← hw]
      rfl
    · rw [← hw]
      exact hphase
    · show w.gather.turn.map _ = none
      rw [hwturn, hturn]
      rfl
    · have hmap : w.gather.turn.map _ = some t := ht
      rw [hwturn, Option.map_eq_some_iff] at hmap
      obtain ⟨t', ht', rfl⟩ := hmap
      exact ⟨t', ht', rfl⟩
    · obtain ⟨x', hx'⟩ := hentries e x hx
      rw [State.freeBuffer_entry, hwentry, hx']
      exact ⟨_, rfl⟩
    · rw [State.freeBuffer_entry, hwentry, hothers e (hout b y hy), hx, Option.map_some,
        Entry.unwatch_of_not_mem (by rw [hwatch]; exact List.not_mem_nil)]

theorem State.LosesPages.of_list {d : DevicePos} (f : BufferId → Option Cause) (l : List BufferId) (s : State)
    (hdevice : ∀ b ∈ l, ∀ y, s.buffer? b = some y → y.device = d) :
    s.LosesPages (l.foldl (fun t b => t.endBufferQuiet b (f b)) s) d l := by
  induction l generalizing s with
  | nil => exact .nil
  | cons b l ih =>
    have hfirst := State.endBufferQuiet_losesPages (f b) (hdevice b (by simp))
    refine hfirst.cons (ih _ fun b' hb' y hy => ?_)
    rw [hfirst.buffers] at hy
    split at hy
    · cases hy
    · exact hdevice b' (by simp [hb']) y hy

/-- R38: what is lost belongs to the device, and is all that does. -/
theorem State.mem_lostBuffers {s v : State} {d : DevicePos} (hv : s.GoesOffline v d)
    (hat : ∀ b y, s.buffer? b = some y → y.device = d →
      y.state = .gathering ∨ b ∈ (s.channel (channelOf d)).queue ∨ (s.device d).slot = some b)
    (hslot : ∀ b, (s.device d).slot = some b → ∃ y, s.buffer? b = some y ∧ y.device = d) (b : BufferId) (y : Buffer)
    (hy : s.buffer? b = some y) : b ∈ v.lostBuffers d ↔ y.device = d := by
  have hvbuffer : v.buffer? b = some y := (congrArg (fun s : State => s.buffer? b) hv.frame).trans hy
  have hvqueue : (v.channel (channelOf d)).queue = (s.channel (channelOf d)).queue := by rw [hv.channel, if_pos rfl]
  obtain ⟨gathering, hl, -, -, hgathering⟩ := v.lostBuffers_loses d
  rw [hl, List.mem_append, List.mem_append, hv.slot, hvqueue, List.mem_filter, hgathering, hvbuffer, Option.mem_toList]
  constructor
  · rintro ((hin | ⟨-, hin⟩) | ⟨y', hy', -, hin⟩)
    · obtain ⟨y', hy', hdevice⟩ := hslot b hin
      rw [hy] at hy'
      cases hy'
      exact hdevice
    · exact of_decide_eq_true hin
    · cases hy'
      exact hin
  · intro hdevice
    obtain hstate | hqueue | hin := hat b y hy hdevice
    · exact .inr ⟨y, rfl, hstate, hdevice⟩
    · exact .inl (.inr ⟨hqueue, decide_eq_true hdevice⟩)
    · exact .inl (.inl hin)

theorem State.entry_reportFlushes_other {s : State} {e : EntryId} (h : e ∉ s.flushesDue) : s.reportFlushes.entry? e = s.entry? e := by
  refine (State.reportFlush_all s.flushesDue s ((oldestFirst_spec _ _).1.nodup_iff.mpr (State.entriesWhere_nodup _ _))
    fun k hk => ?_).1 e h
  obtain ⟨y, hy, -⟩ := (State.mem_flushesDue _ _).mp hk
  rw [hy]
  exact Option.some_ne_none y

theorem State.reportFlushes_endsOnly (s : State) : s.EndsOnly s.reportFlushes :=
  State.endsOnly_foldl _ State.reportFlush_endsOnly _ _

/-- R38, steps 3 to 5, with no barrier order at its turn. -/
def State.workLost (s : State) (d : DevicePos) : State := (s.reportFlushes.readsOffline d).gatherOffline d

theorem State.workLost_endsOnly (s : State) (d : DevicePos) : s.EndsOnly (s.workLost d) :=
  (s.reportFlushes_endsOnly.trans (State.readsOffline_endsOnly _ d)).trans (State.gatherOffline_endsOnly _ d)

theorem State.workLost_deferred (s : State) (d : DevicePos) : (s.workLost d).reader.deferred[d] = [] := by
  obtain ⟨o, h, r, hreads, hnone⟩ := s.reportFlushes.readsOffline_shape d
  have hreader : (s.workLost d).reader = r := (State.gatherOffline_reader _ d).trans (congrArg State.reader hreads)
  rw [hreader]
  exact hnone

/-- R127: a PARKED read of the device is DONE, and outside a turn nothing else has touched it. -/
theorem State.workLost_parked {s : State} {d : DevicePos} {e : EntryId} {x : Entry} (he : e ∈ s.reader.deferred[d])
    (hx : s.entry? e = some x) : ∃ x', (s.workLost d).entry? e = some x' ∧ x'.state = .done
      ∧ (s.gather.turn = none → x.kind = .read → x'.result = some ⟨.deviceOffline, BitVec.ofNat 32 x.progress, none⟩) := by
  obtain ⟨o, p, hflushes⟩ := s.reportFlushes_shape
  obtain ⟨o', h, r, hreads, -⟩ := s.reportFlushes.readsOffline_shape d
  have hreader : e ∈ s.reportFlushes.reader.deferred[d] := by
    rw [hflushes]
    exact he
  obtain ⟨y, hy, -⟩ := s.reportFlushes_endsOnly.entries e x hx
  have hparked := State.readsOffline_parked hreader hy
  obtain ⟨x', hx', hdone⟩ := (State.gatherOffline_endsOnly (s.reportFlushes.readsOffline d) d).entries e _ hparked
  refine ⟨x', hx', hdone rfl, fun hturn hkind => ?_⟩
  have hout : e ∉ s.flushesDue := fun hdue => by
    obtain ⟨z, hz, hflush, -⟩ := (State.mem_flushesDue _ _).mp hdue
    rw [hx] at hz
    cases hz
    rw [hkind] at hflush
    cases hflush
  have hturned : (s.reportFlushes.readsOffline d).gather.turn = none := by
    rw [hreads, hflushes]
    exact hturn
  have hgather : (s.reportFlushes.readsOffline d).gatherOffline d = s.reportFlushes.readsOffline d := by
    refine (State.gatherOffline_cases _ d).resolve_right fun ⟨t, _, ht, _⟩ => ?_
    rw [hturned] at ht
    cases ht
  rw [State.entry_reportFlushes_other hout, hx] at hy
  cases hy
  rw [hgather, hparked] at hx'
  cases hx'
  rfl

/-- Settles O44: the steps one after another, then what they leave. -/
theorem lostDeviceEndsItsWork : Obligations.LostDeviceEndsItsWork := by
  refine ⟨fun s d cause hturn hboot hat hslot => ?_, fun s d cause => ?_⟩
  · have hv := s.lossBegun_goesOffline d
    have hmem := State.mem_lostBuffers hv hat hslot
    have hgo := s.goOffline_eq d cause
    generalize s.lossBegun d = v at hv hmem hgo
    have hvbuffer (b : BufferId) : v.buffer? b = s.buffer? b := (congrArg (fun s : State => s.buffer? b) hv.frame).trans rfl
    have hlost : v.LosesPages (v.buffersLost d cause) d (v.lostBuffers d) :=
      .of_list _ _ v fun b hb y hy => (hmem b y ((hvbuffer b).symm.trans hy)).mp hb
    generalize v.buffersLost d cause = w at hlost hgo
    have hends := w.workLost_endsOnly d
    have hbarrier : w.reportFlushes.actBarrier = w.reportFlushes := by
      obtain ⟨o, p, hflushes⟩ := w.reportFlushes_shape
      refine State.actBarrier_none fun t ht => ?_
      rw [hflushes] at ht
      obtain ⟨t', ht', hwork⟩ := hlost.turn.2 t ht
      rw [hwork]
      exact hturn t' ((congrArg (fun s : State => s.gather.turn) hv.frame).symm.trans ht')
    have hphase : (w.workLost d).loader.phase = s.loader.phase :=
      (hends.phase.trans hlost.phase).trans ((congrArg (fun s : State => s.loader.phase) hv.frame).trans rfl)
    have hu : s.goOffline d cause = { w.workLost d with
        host := { (w.workLost d).host with fault := (w.workLost d).host.fault ||| 0b010000000#9 } } := by
      rw [hgo, hbarrier]
      exact State.bootLost_else (w.workLost d) d (by rw [hphase]; exact hboot)
    have hdeferred := w.workLost_deferred d
    have hparked (e : EntryId) (x : Entry) (he : e ∈ w.reader.deferred[d]) (hx : w.entry? e = some x) :=
      State.workLost_parked he hx
    clear hbarrier hgo hphase
    generalize w.workLost d = q at hends hu hdeferred hparked
    have hdevices (d' : DevicePos) : q.device d' = w.device d' :=
      congrArg (fun v : Vector DeviceRecord 8 => v[d']) hends.devices
    obtain ⟨attempts, hvdevice⟩ := hv.device_is
    obtain ⟨slot, hwdevice, hcase⟩ := hlost.device
    have hslotNone : slot = none := by
      cases hheld : (v.device d).slot with
      | none => exact hcase.elim id fun heq => heq.trans hheld
      | some b =>
        obtain ⟨y, hy, hydevice⟩ := hslot b (hv.slot.symm.trans hheld)
        have hempty := hlost.slot b ((hmem b y hy).mpr hydevice) hheld (by rw [hvbuffer, hy]; exact Option.some_ne_none y)
        rw [hwdevice] at hempty
        exact hempty
    have hdevice : q.device d = { s.device d with
        state := .offline, wakeLimit := none, cycleTimer := none, pollTimer := false, noAnswer := 0, confirming := false
        failedAttempts := attempts, slot := none } := by
      rw [hdevices, hwdevice, hvdevice, hslotNone]
    have hfield {α : Type} (f : DeviceRecord → α) : f ((s.goOffline d cause).device d) = _ :=
      (congrArg (fun s : State => f (s.device d)) hu).trans (congrArg f hdevice)
    refine ⟨_, rfl, hfield DeviceRecord.state, hfield DeviceRecord.wakeLimit, hfield DeviceRecord.cycleTimer,
      hfield DeviceRecord.pollTimer, hfield DeviceRecord.noAnswer, hfield DeviceRecord.confirming, hfield DeviceRecord.slot,
      fun d' hd => ?_, ?_, fun b y hy => ?_, fun b y hy hother => ?_, fun r hr => ?_, ?_, fun e he x hx => ?_⟩
    · rw [hu]
      exact ((hdevices d').trans (hlost.others d' hd)).trans (hv.otherDevices d' hd)
    · rw [hu]
      exact BitVec.getLsbD_or.trans (Bool.or_true _)
    · rw [hu] at hy
      have hgone (hnone : w.buffer? b = none) : y.device ≠ d :=
        absurd ((hends.free b hnone).symm.trans hy) (Option.some_ne_none y).symm
      cases hs : s.buffer? b with
      | none =>
        refine hgone ((hlost.buffers b).trans ?_)
        rw [hvbuffer, hs, ite_self]
      | some y₀ =>
        by_cases hy₀ : y₀.device = d
        · exact hgone ((hlost.buffers b).trans (if_pos ((hmem b y₀ hs).mpr hy₀)))
        · have hkept := (hlost.buffers b).trans ((if_neg fun hin => hy₀ ((hmem b y₀ hs).mp hin)).trans ((hvbuffer b).trans hs))
          obtain ⟨y', hy', -, hdevice', -⟩ := hends.pages b y₀ hkept
          obtain rfl : y = y' := Option.some.inj (hy.symm.trans hy')
          rw [hdevice']
          exact hy₀
    · have hkept := (hlost.buffers b).trans ((if_neg fun hin => hother ((hmem b y hy).mp hin)).trans ((hvbuffer b).trans hy))
      obtain ⟨y', hy', hstate, hdevice', hpage, himage, hsequence⟩ := hends.pages b y hkept
      rw [hu]
      exact ⟨y', hy', hstate, hdevice', hpage, himage, hsequence⟩
    · rw [hu] at hr
      exact ((hv.request r).mp ((hlost.request.symm.trans hends.request.symm).trans hr)).2
    · rw [hu]
      exact hdeferred
    · have hin : e ∈ w.reader.deferred[d] := by
        rw [hlost.reader, show v.reader = s.reader from (congrArg State.reader hv.frame).trans rfl]
        exact he
      have hventry : v.entry? e = some x := (congrArg (fun s : State => s.entry? e) hv.frame).trans hx
      obtain ⟨x₁, hx₁⟩ := hlost.entries e x hventry
      obtain ⟨x', hx', hdone, hresult⟩ := hparked e x₁ hin hx₁
      rw [hu]
      refine ⟨x', hx', hdone, fun hno hkind _ hwatch hout => ?_⟩
      have hquiet := hlost.quiet e x hventry hwatch fun b y hy => hout b y ((hvbuffer b).symm.trans hy)
      rw [hx₁] at hquiet
      cases hquiet
      exact hresult (hlost.turn.1 ((congrArg (fun s : State => s.gather.turn) hv.frame).trans hno)) hkind
  · have hv := s.lossBegun_goesOffline d
    have hgo := s.goOffline_eq d cause
    generalize s.lossBegun d = v at hv hgo
    have hlost : v.buffersLost d cause = (v.lostBuffers d).foldl (fun t b =>
        t.endBufferQuiet b (some (if (s.device d).slot = some b then cause else .offline))) v := by
      unfold State.buffersLost
      rw [hv.slot]
    generalize v.buffersLost d cause = w at hlost hgo
    refine ⟨v, w, w.reportFlushes.actBarrier, _, _, _, hv, v.lostBuffers_loses d, hlost, rfl, w.nothingDue,
      State.readsOffline_ends _ d, State.gatherOffline_ends _ d, fun helse => ?_, fun hd hphase hnone => ?_⟩
    · exact hgo.trans (State.bootLost_else _ d helse)
    · exact hgo.trans (State.bootLost_wake0 _ d hd hphase hnone)

end Sys2Proof.Machine
end

section
/-! PROOFS. The end of an event (R25, R41 to R43, R48 to R51, R83, R84, R91, R96, R116, R150, R167, R174): the obligation
EventEndFrame. -/

namespace Sys2Proof.Machine

/-! ### The follow-on actions in their order -/

/-- R49, R91, R96: the actions of the blocks in the order in which they follow; the ends of the load and of a drain come last. -/
theorem State.advance_eq (u : State) : u.advance? = ([u.gatherStep?, u.readStep?, u.takeStep? 0, u.takeStep? 1, u.grantStep? 0,
    u.grantStep? 1].foldr (· <|> ·) (u.loadEnd? <|> u.drainEnd?)) := rfl

/-- Of several actions the first that can be done is. -/
theorem firstOf_some {α : Type} {before after : List (Option α)} {v : α} (last : Option α) (h : ∀ o ∈ before, o = none) :
    (before ++ some v :: after).foldr (· <|> ·) last = some v := by
  induction before with
  | nil => rfl
  | cons o before ih =>
    rw [h o (by simp)]
    exact ih fun o' ho' => h o' (by simp [ho'])

theorem firstOf_none {α : Type} {steps : List (Option α)} (last : Option α) (h : ∀ o ∈ steps, o = none) :
    steps.foldr (· <|> ·) last = last := by
  induction steps with
  | nil => rfl
  | cons o steps ih =>
    rw [List.foldr_cons, h o (by simp)]
    exact ih fun o' ho' => h o' (by simp [ho'])

/-- R150, R167: the ends of the load and of a drain, which never come together. -/
theorem State.partEnds (u : State) (loads drains : Prop)
    (hloads : loads ↔ u.loader.phase = some .wakeRest ∧ u.host.part = .loading ∧ ∀ d, (u.device d).state ≠ .waking)
    (hdrains : drains ↔ u.host.part = .draining ∧ (∀ e, u.entry? e = none) ∧ (∀ b, u.buffer? b = none)
      ∧ ∀ t ring slot, u.host.engine = some t → t.job ≠ .orderFetch ring slot) :
    (loads → (u.loadEnd? <|> u.drainEnd?) = some { u with
        loader := { u.loader with phase := none }
        host := { u.host with
          part := (if u.host.run then .settingUp else .stopped), setupRequest := u.host.setupRequest || u.host.run } })
    ∧ (drains → (u.loadEnd? <|> u.drainEnd?) = some { u with host := { u.host with part := .stopped } })
    ∧ (¬ loads → ¬ drains → (u.loadEnd? <|> u.drainEnd?) = none) := by
  obtain ⟨hends, hstays⟩ := u.drainEnd_eq drains hdrains
  have hnoLoad (h : ¬ loads) : u.loadEnd? = none := u.loadEnd_eq.trans (if_neg fun k => h (hloads.mpr k))
  refine ⟨fun h => ?_, fun h => ?_, fun h h' => ?_⟩
  · rw [show u.loadEnd? = some _ from u.loadEnd_eq.trans (if_pos (hloads.mp h))]
    rfl
  · have hloading : ¬ loads := fun k => by
      have hpart := (hdrains.mp h).1.symm.trans (hloads.mp k).2.1
      cases hpart
    rw [hnoLoad hloading, hends h]
    rfl
  · rw [hnoLoad h, hstays h']
    rfl

/-! ### What the engines can do -/

/-- R96: with nothing at its turn and an empty queue, or a head order held back, nothing starts. -/
theorem State.gatherStep_idle {u : State} (hturn : u.gather.turn = none) (h : u.headToStart = none) : u.gatherStep? = none := by
  unfold State.gatherStep?
  rw [hturn, h]
  rfl

theorem State.gatherStep_head {u : State} {e : EntryId} {x : Entry} (hturn : u.gather.turn = none) (h : u.headToStart = some (e, x)) :
    u.gatherStep? = some (u.startHead e x) := by
  unfold State.gatherStep?
  rw [hturn, h]
  rfl

/-- R99, R110: a barrier order in its wait, and a WRITE that waits for its data, let the engine wait. -/
theorem State.gatherStep_waits {u : State} {t : Turn} (hturn : u.gather.turn = some t)
    (h : t.span = none ∧ t.work = .barrier ∨ t.span ≠ none ∧ t.bytes = none) : u.gatherStep? = none := by
  unfold State.gatherStep? State.atTurn
  rw [hturn]
  cases hx : u.entry? t.entry with
  | none => simp [hx]
  | some x =>
    simp only [hx, Option.map_some]
    rcases h with ⟨hspan, hwork⟩ | ⟨hspan, hbytes⟩
    · simp [hspan, hwork]
    · cases hs : t.span with
      | none => exact absurd hs hspan
      | some sp => simp [hbytes]

/-- R116: the Read Engine has one active read. -/
theorem State.readStep_busy {u : State} (h : u.reader.active ≠ none) : u.readStep? = none := by
  unfold State.readStep? State.readToResume State.readToStart
  cases hactive : u.reader.active with
  | none => exact absurd hactive h
  | some a => rfl

/-- R116: without a ready read the earliest of those that R82 allows starts. -/
theorem State.readStep_start {u : State} (hactive : u.reader.active = none) (hready : u.reader.ready = []) :
    u.readStep? = (oldestBy u.orderAge (u.reader.waiting.filter u.mayStartRead)).map u.startRead := by
  unfold State.readStep? State.readToResume
  rw [u.readToStart_eq hactive hready, hactive, hready]
  rfl

theorem State.readStep_resume {u : State} {e : EntryId} (hactive : u.reader.active = none)
    (h : oldestBy u.orderAge u.reader.ready = some e) : u.readStep? = some (u.resumeRead e) := by
  unfold State.readStep? State.readToResume
  rw [hactive]
  dsimp only
  rw [h]

/-- R41: the arbiter of a free channel takes the first of what it may act on. -/
theorem State.grantStep_free {u : State} {c : ChannelId} (h : (u.channel c).frame = none) :
    u.grantStep? c = (firstItem (u.channel c).lastGranted ((u.channel c).waiting.filter u.grantable)).map (u.actOnItem c) := by
  unfold State.grantStep?
  rw [h]

theorem State.grantStep_busy {u : State} {c : ChannelId} (h : (u.channel c).frame ≠ none) : u.grantStep? c = none := by
  unfold State.grantStep?
  cases hframe : (u.channel c).frame with
  | none => exact absurd hframe h
  | some f => rfl

/-- R83, R84, R96: whether and how the head order starts. -/
theorem State.gatherStep_queue {u : State} (hturn : u.gather.turn = none) :
    (u.gather.queue = [] → u.gatherStep? = none)
    ∧ ∀ e x rest, u.gather.queue = e :: rest → u.entry? e = some x → x.sequence ≠ none →
        (¬ u.GatherAllowed x → u.gatherStep? = none)
        ∧ (u.GatherAllowed x → ∃ v, u.gatherStep? = some v ∧ u.HeadStarts v e x) := by
  refine ⟨fun hempty => State.gatherStep_idle hturn (by simp [State.headToStart, hturn, hempty]), fun e x rest hqueue hx hnumber => ?_⟩
  have hallowed := u.mayStartGather_iff e x hx hnumber
  refine ⟨fun hheld => State.gatherStep_idle hturn (State.headToStart_none hturn hqueue ?_), fun hfree => ?_⟩
  · exact eq_false_of_ne_true fun hmay => hheld (hallowed.mp hmay)
  · exact ⟨_, State.gatherStep_head hturn (State.headToStart_some hturn hqueue hx (hallowed.mpr hfree)),
      u.startHead_starts e x hturn hx⟩

/-- R82, R116: whether and which waiting read starts. -/
theorem State.readStep_waiting {u : State} (hactive : u.reader.active = none) (hready : u.reader.ready = []) :
    ((∀ e ∈ u.reader.waiting, ∀ x, u.entry? e = some x → x.sequence ≠ none ∧ ¬ u.ReadAllowed x) → u.readStep? = none)
    ∧ ∀ e x, e ∈ u.reader.waiting → u.entry? e = some x → x.kind = .read → x.sequence ≠ none → u.ReadAllowed x →
        (∀ e' ∈ u.reader.waiting, ∀ y, e' ≠ e → u.entry? e' = some y → u.ReadAllowed y → u.orderAge e' < u.orderAge e) →
        ∃ v, u.readStep? = some v ∧ u.ReadStarts v e x := by
  rw [State.readStep_start hactive hready]
  refine ⟨fun hheld => ?_, fun e x hin hx hkind hnumber hallowed hfirst => ?_⟩
  · have hnone : u.reader.waiting.filter u.mayStartRead = [] := by
      refine List.filter_eq_nil_iff.mpr fun e he hmay => ?_
      obtain ⟨x, hx⟩ := State.entry_of_mayStartRead hmay
      exact (hheld e he x hx).2 (u.readAllowed_of_mayStartRead e x hx hmay)
    rw [hnone]
    rfl
  · have hchosen : oldestBy u.orderAge (u.reader.waiting.filter u.mayStartRead) = some e := by
      refine oldestBy_is _ _ e (List.mem_filter.mpr ⟨hin, (u.mayStartRead_iff e x hx hnumber).mpr hallowed⟩) fun e' he' hne => ?_
      obtain ⟨hin', hmay'⟩ := List.mem_filter.mp he'
      obtain ⟨y, hy⟩ := State.entry_of_mayStartRead hmay'
      exact hfirst e' hin' y hne hy (u.readAllowed_of_mayStartRead e' y hy hmay')
    rw [hchosen]
    exact ⟨_, rfl, u.startRead_starts e x hx hkind⟩

/-- R48 to R51: the look at a program queue. -/
theorem State.takeStep_queue (u : State) (c : ChannelId) :
    ((∀ b ∈ (u.channel c).queue, ¬ u.MayTake b) → u.takeStep? c = none)
    ∧ ∀ (b : BufferId) (y : Buffer) (ahead behind : List BufferId), (u.channel c).queue = ahead ++ b :: behind →
        (∀ b' ∈ ahead, ¬ u.MayTake b') → u.MayTake b → u.buffer? b = some y →
        ∃ v, u.takeStep? c = some v ∧ u.Takes v b y := by
  unfold State.takeStep?
  refine ⟨fun hnone => ?_, fun b y ahead behind hqueue hahead hmay hy => ?_⟩
  · rw [List.find?_eq_none.mpr fun b hb hmay => hnone b hb ((u.mayTake_iff b).mp hmay)]
    rfl
  · rw [hqueue, find_behind u.mayTake ahead behind b
      (fun b' hb' => eq_false_of_ne_true fun hmay' => hahead b' hb' ((u.mayTake_iff b').mp hmay')) ((u.mayTake_iff b).mpr hmay)]
    exact ⟨_, rfl, u.takeBuffer_takes b y hy⟩

/-- R41 to R43: the arbiter of a channel. -/
theorem State.grantStep_items (u : State) (c : ChannelId) :
    ((u.channel c).frame ≠ none ∨ (∀ i ∈ (u.channel c).waiting, ¬ u.MayGrant i) → u.grantStep? c = none)
    ∧ ((u.channel c).frame = none → ∀ j ∈ (u.channel c).waiting, u.MayGrant j →
        (∀ i ∈ (u.channel c).waiting, channelOf i.device = c) →
        ∃ i ∈ (u.channel c).waiting, u.MayGrant i
          ∧ (∀ j ∈ (u.channel c).waiting, u.MayGrant j → comesFirst (u.channel c).lastGranted i j)
          ∧ ∃ v, u.grantStep? c = some v ∧ u.ActsOnItem v c i) := by
  have hmem (i : WorkItem) : i ∈ (u.channel c).waiting.filter u.grantable ↔ i ∈ (u.channel c).waiting ∧ u.MayGrant i := by
    rw [List.mem_filter, u.grantable_iff]
  refine ⟨fun h => ?_, fun hfree j hj hmay hchannel => ?_⟩
  · by_cases hframe : (u.channel c).frame = none
    · have hnone := h.resolve_left (not_not_intro hframe)
      rw [State.grantStep_free hframe,
        (firstItem_none _ _).mpr (List.filter_eq_nil_iff.mpr fun i hi hmay => hnone i hi ((u.grantable_iff i).mp hmay))]
      rfl
    · exact State.grantStep_busy hframe
  · rw [State.grantStep_free hfree]
    cases hfirst : firstItem (u.channel c).lastGranted ((u.channel c).waiting.filter u.grantable) with
    | none =>
      have hin := (hmem j).mpr ⟨hj, hmay⟩
      rw [(firstItem_none _ _).mp hfirst] at hin
      cases hin
    | some i =>
      obtain ⟨hin, hbefore⟩ := firstItem_some _ _ i hfirst
      obtain ⟨hi, hmay⟩ := (hmem i).mp hin
      exact ⟨i, hi, hmay, fun k hk hkmay => hbefore k ((hmem k).mpr ⟨hk, hkmay⟩), _, rfl, u.actOnItem_acts c i (hchannel i hi)⟩

/-- R49, R91: an event's follow-on actions, the joining of the done queue, and then the host side. -/
theorem State.conclude_course (u : State) :
    ∃ (n : Nat) (w j : State), n ≤ Config.settleBound ∧ u.RunsTo n w ∧ (w.advance? = none ∨ n = Config.settleBound)
      ∧ j = { w with
          orders := { w.orders with done := w.orders.done ++ w.endedOf w.startedGather ++ w.endedOf w.startedRead }
          startedGather := [], startedRead := [] }
      ∧ u.conclude = j.hostSide ∧ u.conclude.orders = j.orders
      ∧ u.conclude.startedGather = [] ∧ u.conclude.startedRead = [] := by
  obtain ⟨n, hbound, hruns, hends⟩ := State.settleWithin_runs Config.settleBound u
  obtain ⟨horders, hgather, hread⟩ := u.settle.joinStarted.hostSide_orders
  exact ⟨n, u.settle, u.settle.joinStarted, hbound, hruns, hends, u.settle.joinStarted_eq, rfl, horders, hgather, hread⟩

/-- R25: the two or three address bytes of a frame, most significant first. -/
theorem addressBytes_eq (w : AddressWidth) (address : Nat) : addressBytes w address = match w with
    | .two => [BitVec.ofNat 8 (address / 256), BitVec.ofNat 8 address]
    | .three => [BitVec.ofNat 8 (address / 65536), BitVec.ofNat 8 (address / 256), BitVec.ofNat 8 address] := by
  cases w <;> simp [addressBytes, beBytes, leBytes, AddressWidth.bytes, List.range_succ]

/-- Settles O3, clause by clause. -/
theorem eventEndFrame : Obligations.EventEndFrame := by
  intro u
  obtain ⟨-, -, hposter, hhrst, hgrd, hbw, hguard, hrun, hint, hfault, hsetup, hpending, hsequence, hidentities, hconfig, hnhead, hntail,
    huhead, hutail⟩ := u.conclude_keeps
  refine ⟨⟨hhrst, hgrd, hbw⟩, ⟨hrun, hint, hfault, hsetup, hpending⟩, hguard, ⟨hconfig, hnhead, hntail, huhead, hutail⟩, hposter,
    hsequence, fun e => ?_, u.conclude_busy, u.conclude_follows, u.conclude_course, fun steps hsteps => ⟨fun before v after hfirst hbefore => ?_,
      fun hnone loads drains hloads hdrains => ?_⟩, State.gatherStep_queue, fun t hturn hwaits => State.gatherStep_waits hturn hwaits,
    State.readStep_busy, State.readStep_waiting, fun hactive e x hin hx hkind hfirst => ?_, u.takeStep_queue, u.grantStep_items,
    fun d w dropped address => ?_⟩
  · have hentry := congrArg (fun v : Vector (Option Identity) 32 => v[e]) hidentities
    simpa [State.entry?] using hentry
  · rw [State.advance_eq, ← hsteps, hfirst]
    exact firstOf_some _ hbefore
  · rw [State.advance_eq, ← hsteps, firstOf_none _ hnone]
    exact u.partEnds loads drains hloads hdrains
  · exact ⟨_, State.readStep_resume hactive (oldestBy_is _ _ e hin hfirst), u.resumeRead_resumes e x hx hkind⟩
  · have haddress := addressBytes_eq w address
    refine ⟨fun _ => rfl, fun _ _ => ?_, fun _ data => ?_⟩
    · exact congrArg (fun l => [0x74 :: l]) haddress
    · exact congrArg (fun l => [[0x7C], 0x7A :: (l ++ data)]) haddress

end Sys2Proof.Machine
end
